-- ==== Sys2Proof/Word.lean ====
section
/-! DEFINITION. The word types of the block: 32-bit cells, offsets and write data (R10, R32, R51), and the
bytes of the fabric (R36). -/

namespace Sys2Proof

/-- A 32-bit cell, byte offset, write value or configuration word (R10, R12, R32, R51). -/
abbrev Word := BitVec 32

/-- A byte of the fabric's byte-addressed accesses (R36). -/
abbrev Byte := BitVec 8

end Sys2Proof
end

