-- ==== Sys2Proof/Config.lean ====
section
/-! DEFINITION. What is fixed for one block: the variant tag, the variant descriptor with every parameter of
R6, the construction-time configuration (R9, R12), and the free values the spec leaves open. The descriptor
VALUES are no part of this file: QSPEC gives none of them (R6), so a state carries the record (log entry 1). -/

namespace Sys2Proof

/-- The three generations `V_OLD`, `V_MID`, `V_NEW` (R2). -/
inductive Variant where
  /-- `V_OLD`, the oldest generation. -/
  | old
  /-- `V_MID`, the middle generation. -/
  | mid
  /-- `V_NEW`, the newest generation. -/
  | new
  deriving DecidableEq, Repr

/-- A field `[hi:lo]` of a 32-bit word (00_scope.md section 5). -/
structure BitField where
  hi : Nat
  lo : Nat
  deriving DecidableEq, Repr

/-- The variant descriptor `VD[v]`: the parameters P1 to P3, P7, P9 to P25 of R6, under the names of R6 and in
its order. Indexes are cell indexes. A field of another variant (the Algorithm A fields on `V_MID`, the alias cell
on `V_OLD`) is never read by a rule. -/
structure Descriptor where
  /-- P1 `N`: number of cells. -/
  n : Nat
  /-- P2 `WINDOW`: bytes of the register window. -/
  window : Nat
  /-- P3 `DEFAULTS`: the default reset image, cell 0 first. -/
  defaults : List Word
  /-- P7 `K`: the protection-key cell. -/
  k : Nat
  /-- P9 `ID`: the identification cell. -/
  id : Nat
  /-- P10 `ALIAS`: the silicon-revision cell that holds the alias word (`V_NEW`). -/
  aliasCell : Nat
  /-- P10 `REV_ALIAS_A1`: the alias word (`V_NEW`). -/
  revAliasA1 : Word
  /-- P11 `STRAP1`. -/
  strap1 : Nat
  /-- P11 `STRAP2`. -/
  strap2 : Nat
  /-- P12 `W1S_SET`: the accumulate-OR cells other than the straps. -/
  w1sSet : List Nat
  /-- P13 `CLR_OF`: clear cell to target cell. -/
  clrOf : List (Nat × Nat)
  /-- P14 `PROT_OF`: strap cell to protect cell. -/
  protOf : List (Nat × Nat)
  /-- P15 `RNG_DATA`. -/
  rngData : Nat
  /-- P15 `RNG_CTRL`: the cosmetic enable cell; no rule reads it (R23). -/
  rngCtrl : Nat
  /-- P16 `RO_SET`. -/
  roSet : List Nat
  /-- P17 `WO_WARN_SET`. -/
  woWarnSet : List Nat
  /-- P18 `LOCK_HI`: exclusive upper index of the guarded range. -/
  lockHi : Nat
  /-- P19 `LOCK_BLOCKS`: whether a lock violation drops the write; normative value `false` (R74, R75). -/
  lockBlocks : Bool
  /-- P20 `HPLL`: the PLL-parameter cell. -/
  hpll : Nat
  /-- P20 `CLKSEL`: the clock-select cell. -/
  clksel : Nat
  /-- P21 `A_OFF_BIT`. -/
  aOffBit : Nat
  /-- P21 `A_PROG_BIT`. -/
  aProgBit : Nat
  /-- P21 `A_DIV`. -/
  aDiv : BitField
  /-- P21 `A_OD_BIT`. -/
  aOdBit : Nat
  /-- P21 `A_FB`. -/
  aFb : BitField
  /-- P22 `A_25M_BIT`. -/
  a25mBit : Nat
  /-- P22 `A_FSEL`. -/
  aFsel : BitField
  /-- P22 `A_TABLE[2][4]`: output frequencies in Hz, one list a row. -/
  aTable : List (List Word)
  /-- P23 `B_OFF_BIT`. -/
  bOffBit : Nat
  /-- P23 `B_BYPASS_BIT`. -/
  bBypassBit : Nat
  /-- P23 `B_M`, the feedback multiplier. -/
  bM : BitField
  /-- P23 `B_N`, the input divider. -/
  bN : BitField
  /-- P23 `B_P`, the output divider. -/
  bP : BitField
  /-- P24 `PCLK_DIV`. -/
  pclkDiv : BitField
  /-- P25 `CLKIN_25M_BIT`. -/
  clkin25mBit : Nat
  /-- P25 `CLKIN_48M_BIT`. -/
  clkin48mBit : Nat
  deriving DecidableEq, Repr

/-- All parameters of the block: one descriptor a variant and the two parameters shared by all three, P8
`UNLOCK_CONST` and P26 `REV_ALLOW` (R3, R6). -/
structure Params where
  old : Descriptor
  mid : Descriptor
  new : Descriptor
  unlockConst : Word
  revAllow : List Word
  deriving DecidableEq, Repr

/-- DeviceConfig with the variant tag that travels with it (R9, R12). -/
structure DeviceConfig where
  variant : Variant
  siliconRev : Word
  hwStrap1 : Word
  hwStrap2 : Word
  hwProtKey : Word
  deriving DecidableEq, Repr

/-- What selects the meaning of a transaction word: the variant tag, "the block's one decoding mode" (R62), with
its descriptor. -/
structure Mode where
  variant : Variant
  vd : Descriptor
  deriving DecidableEq, Repr

/-- FREE VALUE (log entry 5). The `n`-th word of the random source where no injected word is waiting: "The draw is
under no law" (R38, U1). No body, so no proof can know it. -/
opaque Config.freeDraw : Nat → Word

/-- FREE VALUE (log entry 6). The `rdata` of an operation answered with `ERR`, "unspecified" (R70, R115, U3). -/
opaque Config.freeRdata : Nat → Word

end Sys2Proof
end

