-- ==== Sys2Proof/Machine/Operands.lean ====
section
/-! DEFINITION. The operand forms: the cell index of an offset (R71), the width mask (00_scope.md section 5) with the
write value and read data assembled from it (R57), bits and bit fields of a word, and the widths and alignments the
boundary admits (R55, R70). -/

namespace Sys2Proof.Machine

/-- `index = offset >> 2` (R11, R71). -/
def indexOf (offset : Word) : Nat := (offset >>> 2).toNat

/-- `mask(w) = 2^(8*w) - 1` on 32 bits, `w` in bytes (00_scope.md section 5). -/
def mask (width : BitVec 4) : Word := BitVec.ofNat 32 (2 ^ (8 * width.toNat) - 1)

/-- `val = wdata & mask(w)` (R57). -/
def writeValue (width : BitVec 4) (wdata : Word) : Word := wdata &&& mask width

/-- `rdata = cell & mask(w)` (R57). -/
def readData (width : BitVec 4) (cell : Word) : Word := cell &&& mask width

/-- `v[b]`. -/
def bitOf (v : Word) (b : Nat) : Bool := v.getLsbD b

/-- `v[hi:lo]` as an unsigned integer. -/
def fieldOf (v : Word) (f : BitField) : Nat := (v.toNat >>> f.lo) % 2 ^ (f.hi + 1 - f.lo)

/-- `admitted(v, width, offset)` of R70: widths 1 to 4 at any offset on `V_OLD`, width 4 at a multiple of 4 on
`V_MID` and `V_NEW` (R33, R55). -/
def admitted (v : Variant) (width : BitVec 4) (offset : Word) : Bool :=
  match v with
  | .old => width == 1 || width == 2 || width == 3 || width == 4
  | .mid => width == 4 && offset.extractLsb' 0 2 == 0
  | .new => width == 4 && offset.extractLsb' 0 2 == 0

end Sys2Proof.Machine
end

