-- ==== Sys2Proof/Machine/Layout.lean ====
section
/-! DEFINITION. The variant layout decoder: what the variant tag fixes (R4), the policy tag of a cell (R58), the
paired cells of the `V_NEW` groups (R22), and the well-formedness of a descriptor (R7). -/

namespace Sys2Proof.Machine

/-- The two PLL decode algorithms (R99). -/
inductive PllAlg where
  | a
  | b
  deriving DecidableEq, Repr

/-- P4 `PLL_ALG` (R4). -/
def pllAlg : Variant → PllAlg
  | .old => .a
  | .mid => .b
  | .new => .b

/-- P5 `BUS_DIV` (R4). -/
def busDiv : Variant → Nat
  | .old => 2
  | .mid => 4
  | .new => 4

/-- `VD[v]` of the parameter record (R3). -/
def vdOf (p : Params) : Variant → Descriptor
  | .old => p.old
  | .mid => p.mid
  | .new => p.new

/-- The mode of a configuration: its variant with that variant's descriptor (R62). -/
def modeOf (p : Params) (v : Variant) : Mode := ⟨v, vdOf p v⟩

/-- The variant of a two-bit code of `CFG`; code 3 is reserved (R53, R56). -/
def variantOfCode (code : BitVec 2) : Option Variant :=
  if code = 0 then some .old
  else if code = 1 then some .mid
  else if code = 2 then some .new
  else none

/-- The policy tags of R58. -/
inductive Policy where
  | key
  | ro
  | rng
  | wowarn
  | w1sp
  | w1s
  | w1c
  | plain
  deriving DecidableEq, Repr

/-- `CLR_OF[c]`, where `c` is a clear cell (R22). -/
def clrTarget (vd : Descriptor) (c : Nat) : Option Nat := vd.clrOf.lookup c

/-- `PROT_OF[s]`, where `s` is a strap cell of `V_NEW` (R22). -/
def protectCell (vd : Descriptor) (s : Nat) : Option Nat := vd.protOf.lookup s

/-- `POLICY[v](i)`: the first line of R58 that applies. A cell that R21 to R26 or R59 call plain (a protect cell, say)
and that a record R7 admits puts in another class as well has the tag of that class (DESIGN CHOICE: log entry 22). -/
def policy (m : Mode) (i : Nat) : Policy :=
  if i = m.vd.k then .key
  else if i ∈ m.vd.roSet then .ro
  else if i = m.vd.rngData then .rng
  else if i ∈ m.vd.woWarnSet then .wowarn
  else if m.variant = .new ∧ (i = m.vd.strap1 ∨ i = m.vd.strap2) then .w1sp
  else if m.variant = .new ∧ i ∈ m.vd.w1sSet then .w1s
  else if m.variant = .new ∧ (clrTarget m.vd i).isSome then .w1c
  else .plain

/-! ### Well-formedness of a descriptor (R7), clause by clause -/

/-- The one-bit field at position `b`. -/
def oneBit (b : Nat) : BitField := ⟨b, b⟩

/-- A field lies within bits 31..0. -/
def fieldFits (f : BitField) : Bool := decide (f.lo ≤ f.hi) && decide (f.hi ≤ 31)

/-- Two fields share no bit. -/
def fieldsApart (f g : BitField) : Bool := decide (f.hi < g.lo) || decide (g.hi < f.lo)

/-- The fields of one register: each within the word, no two overlapping (R7(g)). -/
def registerFields : List BitField → Bool
  | [] => true
  | f :: fs => fieldFits f && fs.all (fieldsApart f) && registerFields fs

/-- No index is in two of the classes (R7(b)). -/
def classesApart : List (List Nat) → Bool
  | [] => true
  | c :: cs => cs.all (fun c' => c.all (fun i => !c'.contains i)) && classesApart cs

/-- R7(a), and the alias cell on `V_NEW` only. -/
def wfIndexes (v : Variant) (vd : Descriptor) : Bool :=
  ([vd.k, vd.id, vd.strap1, vd.strap2, vd.rngData, vd.rngCtrl, vd.hpll, vd.clksel]
    ++ (if v = .new then [vd.aliasCell] else [])
    ++ vd.w1sSet ++ vd.roSet ++ vd.woWarnSet
    ++ vd.clrOf.map Prod.fst ++ vd.clrOf.map Prod.snd
    ++ vd.protOf.map Prod.fst ++ vd.protOf.map Prod.snd).all (fun i => decide (i < vd.n))

/-- R7(b): the policy classes are pairwise disjoint. -/
def wfClasses (v : Variant) (vd : Descriptor) : Bool :=
  classesApart [[vd.k], vd.roSet, [vd.rngData], vd.woWarnSet, vd.w1sSet,
    (if v = .new then [vd.strap1, vd.strap2] else []), vd.clrOf.map Prod.fst]

/-- R7(c), with `CLR_OF` and `PROT_OF` maps: no key twice. As in R7, nothing is asked of a value of `PROT_OF` but its
range, and two clear cells may have one target (log entries 22, 23). -/
def wfPairs (v : Variant) (vd : Descriptor) : Bool :=
  (vd.clrOf.map Prod.snd).all (fun t => vd.w1sSet.contains t || t == vd.strap1 || t == vd.strap2)
    && decide (vd.clrOf.map Prod.fst).Nodup && decide (vd.protOf.map Prod.fst).Nodup
    && (match v with
        | .new => (vd.protOf.map Prod.fst).all (fun s => s == vd.strap1 || s == vd.strap2)
            && (protectCell vd vd.strap1).isSome && (protectCell vd vd.strap2).isSome
        | _ => vd.clrOf.isEmpty && vd.protOf.isEmpty && vd.w1sSet.isEmpty)

/-- R7(d). -/
def wfIdent (v : Variant) (vd : Descriptor) : Bool :=
  vd.roSet.contains vd.id
    && (v != .new || (vd.roSet.contains vd.aliasCell && vd.aliasCell != vd.id))

/-- R7(e). -/
def wfLock (v : Variant) (vd : Descriptor) : Bool :=
  decide (vd.k < vd.lockHi) && decide (vd.lockHi ≤ vd.n) && (v != .new || vd.lockHi == vd.n)

/-- R7(f). -/
def wfStraps (vd : Descriptor) : Bool :=
  vd.strap1 != vd.strap2 && vd.strap1 != vd.k && vd.strap1 != vd.id
    && vd.strap2 != vd.k && vd.strap2 != vd.id

/-- `PCLK_DIV`, where clock-select and PLL-parameter cell are one, so that R7(g) sets it beside the PLL fields. -/
def sharedClockField (vd : Descriptor) : List BitField := if vd.hpll = vd.clksel then [vd.pclkDiv] else []

/-- R7(g), for the fields the variant's rules read. The strap bits `A_25M_BIT` and `CLKIN_25M_BIT` may be the same bit
(D38), so strap word 1 is checked once with each (log entry 9). -/
def wfFields (v : Variant) (vd : Descriptor) : Bool :=
  fieldFits vd.pclkDiv && registerFields [oneBit vd.clkin25mBit, oneBit vd.clkin48mBit]
    && (match v with
        | .old => registerFields ([oneBit vd.aOffBit, oneBit vd.aProgBit, vd.aDiv, oneBit vd.aOdBit, vd.aFb]
              ++ sharedClockField vd)
            && registerFields [oneBit vd.a25mBit, vd.aFsel, oneBit vd.clkin48mBit]
            && registerFields [oneBit vd.clkin25mBit, vd.aFsel, oneBit vd.clkin48mBit]
            && vd.aFsel.hi == vd.aFsel.lo + 1
            && vd.aTable.length == 2 && vd.aTable.all (fun r => r.length == 4)
        | _ => registerFields ([oneBit vd.bOffBit, oneBit vd.bBypassBit, vd.bM, vd.bN, vd.bP]
            ++ sharedClockField vd))

/-- R7(h) for one variant, with the default image as long as the file (P3). -/
def wfSizes (vd : Descriptor) : Bool :=
  decide (1 ≤ vd.n) && decide (4 * vd.n ≤ vd.window) && vd.defaults.length == vd.n

/-- `WO_WARN_SET` is empty on `V_MID` and `V_NEW` (R59, D17). -/
def wfWarn (v : Variant) (vd : Descriptor) : Bool := v == .old || vd.woWarnSet.isEmpty

end Sys2Proof.Machine

namespace Sys2Proof

open Machine

/-- A descriptor R7 admits for variant `v`. -/
def Descriptor.wf (v : Variant) (vd : Descriptor) : Bool :=
  wfIndexes v vd && wfClasses v vd && wfPairs v vd && wfIdent v vd && wfLock v vd
    && wfStraps vd && wfFields v vd && wfSizes vd && wfWarn v vd

/-- All three descriptors admitted, and `N[V_OLD] = N[V_MID] < N[V_NEW]` (R5, R7(h)). -/
def Params.wf (p : Params) : Bool :=
  Descriptor.wf .old p.old && Descriptor.wf .mid p.mid && Descriptor.wf .new p.new
    && p.old.n == p.mid.n && decide (p.mid.n < p.new.n)

end Sys2Proof
end

