-- ==== Sys2Proof/Machine/RegFile.lean ====
section
/-! DEFINITION. The RegisterFile `x[0..N-1]` (R10): an "ordered sequence of fixed-width (32-bit) cells", with the
reading and writing of one cell and the image `RESET` loads (R131). It is the block's whole address space (R30). -/

namespace Sys2Proof.Machine

/-- The ordered array of cells, cell 0 first (R10, R13). One array has one form, so equal files are equal data. -/
abbrev RegFile := List Word

/-- `x[i]`. Beyond the file, where no rule looks in a well-formed block, it is 0 (log entry 8). -/
def RegFile.cell (x : RegFile) (i : Nat) : Word := x.getD i 0

/-- `x[i] <- v`. "No register cell is ever removed or resized" (R10): beyond the file nothing happens. -/
def RegFile.put (x : RegFile) (i : Nat) (v : Word) : RegFile := x.set i v

/-- The file has the variant's cell count (R10). -/
def RegFile.wf (n : Nat) (x : RegFile) : Bool := x.length == n

/-- Step 3 of R131: the alias word, on `V_NEW` only (R20). -/
def aliasOver (v : Variant) (vd : Descriptor) (x : RegFile) : RegFile :=
  match v with
  | .new => RegFile.put x vd.aliasCell vd.revAliasA1
  | .mid => x
  | .old => x

/-- What `RESET` leaves in the file (R131): the default image, then the configuration over it, then the alias. -/
def resetImage (vd : Descriptor) (cfg : DeviceConfig) : RegFile :=
  aliasOver cfg.variant vd
    (RegFile.put
      (RegFile.put
        (RegFile.put
          (RegFile.put vd.defaults vd.id cfg.siliconRev)
          vd.strap1 cfg.hwStrap1)
        vd.strap2 cfg.hwStrap2)
      vd.k cfg.hwProtKey)

end Sys2Proof.Machine
end

