-- ==== Sys2Proof/Machine/Reference.lean ====
section
/-! DEFINITION. The reference instantiation `REF` of the parameters (00_scope.md rule R6, columns REF; every value of it
is "[from general knowledge, not in source]", so PRESUMED: log entry 2), with the family's default reset values of
93_implementation_defined.md G4 (PRESUMED: log entry 3). Only `State.reset` and `decodeTableWord` use it: no meaning
does, each reads the record its state holds. -/

namespace Sys2Proof.Machine

/-- A default image of `n` cells: 0 but for the listed ones. -/
def imageOf (n : Nat) (values : List (Nat × Word)) : RegFile :=
  values.foldl (fun x p => RegFile.put x p.1 p.2) (List.replicate n 0)

/-- REF `V_OLD`, `DEFAULTS` from G4. -/
def refOld : Descriptor where
  n := 106
  window := 0x1000
  defaults := imageOf 106
    [(1, 0xFFCFFEDC), (2, 0xF3F40000), (3, 0x19FC3E8B), (7, 0x00026108), (8, 0x00030291)]
  k := 0
  id := 31
  aliasCell := 0
  revAliasA1 := 0
  strap1 := 28
  strap2 := 52
  w1sSet := []
  clrOf := []
  protOf := []
  rngData := 30
  rngCtrl := 29
  roSet := [5, 20, 21, 22, 23, 24, 25, 26, 27, 31, 56, 57]
  woWarnSet := [48]
  lockHi := 65
  lockBlocks := false
  hpll := 9
  clksel := 2
  aOffBit := 16
  aProgBit := 18
  aDiv := ⟨3, 0⟩
  aOdBit := 4
  aFb := ⟨10, 5⟩
  a25mBit := 23
  aFsel := ⟨9, 8⟩
  aTable := [[384000000, 360000000, 336000000, 408000000], [400000000, 375000000, 350000000, 425000000]]
  bOffBit := 19
  bBypassBit := 20
  bM := ⟨12, 5⟩
  bN := ⟨4, 0⟩
  bP := ⟨18, 13⟩
  pclkDiv := ⟨25, 23⟩
  clkin25mBit := 23
  clkin48mBit := 18

/-- REF `V_MID`, `DEFAULTS` from G4. -/
def refMid : Descriptor :=
  { refOld with
    woWarnSet := []
    defaults := imageOf 106
      [(1, 0xFFCFFEDC), (2, 0xF3F40000), (3, 0x19FC3E8B), (7, 0x00026108), (8, 0x00030291),
       (9, 0x93000400), (11, 0x00000010)] }

/-- REF `V_NEW`, `DEFAULTS` from G4 (of its two recollected H-PLL values, 0x1000408F). -/
def refNew : Descriptor :=
  { refOld with
    n := 904
    defaults := imageOf 904
      [(16, 0xF7C3FED8), (32, 0xFFFF7F8A), (36, 0xFFF0FFF0), (128, 0x1000408F)]
    id := 5
    aliasCell := 1
    revAliasA1 := 0x05010303
    strap1 := 320
    strap2 := 324
    w1sSet := [16, 20, 32, 36]
    clrOf := [(17, 16), (21, 20), (33, 32), (37, 36), (321, 320), (325, 324)]
    protOf := [(320, 322), (324, 326)]
    rngData := 336
    rngCtrl := 329
    roSet := [1, 5, 364, 365]
    woWarnSet := []
    lockHi := 904
    hpll := 128
    clksel := 192 }

/-- The REF record, with REF `UNLOCK_CONST` and `REV_ALLOW`. -/
def refParams : Params where
  old := refOld
  mid := refMid
  new := refNew
  unlockConst := 0x1688A8A8
  revAllow := [0x02000303, 0x02010303, 0x04000303, 0x04010303, 0x05000303, 0x05010303, 0x05020303, 0x05030303]

/-- The configuration `State.reset` was constructed with: the fresh `V_NEW` start of 95_test_vectors.md section 2
(DESIGN CHOICE: log entry 4). -/
def refConfig : DeviceConfig := ⟨.new, 0x05010303, 0, 0, 0x1688A8A8⟩

/-- The mode of `State.reset`. -/
def refMode : Mode := modeOf refParams refConfig.variant

end Sys2Proof.Machine
end

