-- ==== Sys2Proof/Syntax.lean ====
section
/-! DEFINITION. The operation set: one constructor per row of spec/opcode_table.json, and the boundary words that
carry them, the transaction word `TW` (R51) and the configuration word `CFG` (R53). -/

namespace Sys2Proof

/-- One operation as the fabric or the composition layer presents it: a 72-bit transaction word (R51), or the
130-bit configuration word of a construction (R53). -/
inductive Request where
  | tw (w : BitVec 72)
  | cfg (w : BitVec 130)
  deriving DecidableEq, Repr

/-- The rows of the opcode table. A constructor keeps the fields its row uses; a field R51 calls ignored is not
kept, since "the result does not depend on them" (U6). -/
inductive Instr where
  /-- `CONSTRUCT` (R130), with the fields of `CFG` (R53); variant code 3 is the reserved code. -/
  | construct (variant : BitVec 2) (siliconRev hwStrap1 hwStrap2 hwProtKey : Word)
  /-- `RESET` (R131). -/
  | reset
  /-- `PCLKQ.A`: `PCLKQ` with Algorithm A (R100, R97). -/
  | pclkqA
  /-- `PCLKQ.B`: `PCLKQ` with Algorithm B (R100, R98). -/
  | pclkqB
  /-- `RD.BUSERR`: a read the access boundary rejects (R70). -/
  | rdBuserr (width : BitVec 4) (offset : Word)
  /-- `WR.BUSERR`: a write the access boundary rejects (R70). -/
  | wrBuserr (width : BitVec 4) (offset wdata : Word)
  /-- `RD.OOR` (R72). -/
  | rdOor (width : BitVec 4) (offset : Word)
  /-- `WR.OOR` (R73). -/
  | wrOor (width : BitVec 4) (offset wdata : Word)
  /-- `RD.PLAIN` (R90). -/
  | rdPlain (width : BitVec 4) (offset : Word)
  /-- `RD.RNG` (R91). -/
  | rdRng (width : BitVec 4) (offset : Word)
  /-- `RD.WOWARN` (R92). -/
  | rdWowarn (width : BitVec 4) (offset : Word)
  /-- `WR.PLAIN` (R80). -/
  | wrPlain (width : BitVec 4) (offset wdata : Word)
  /-- `WR.RO` (R81). -/
  | wrRo (width : BitVec 4) (offset wdata : Word)
  /-- `WR.KEY` (R82). -/
  | wrKey (width : BitVec 4) (offset wdata : Word)
  /-- `WR.W1S` (R83). -/
  | wrW1s (width : BitVec 4) (offset wdata : Word)
  /-- `WR.W1C` (R84). -/
  | wrW1c (width : BitVec 4) (offset wdata : Word)
  /-- `WR.W1SP` (R85). -/
  | wrW1sp (width : BitVec 4) (offset wdata : Word)
  /-- `WR.RNG` (R86). -/
  | wrRng (width : BitVec 4) (offset wdata : Word)
  /-- `RSVD.OP4_7`: `op = 01rr` (R56). -/
  | rsvdOp47 (r : BitVec 2)
  /-- `RSVD.OP8_F`: `op = 1rrr` (R56). -/
  | rsvdOp8F (r : BitVec 3)
  deriving DecidableEq, Repr

end Sys2Proof
end

