-- ==== Sys2Proof/WellFormed.lean ====
section
/-! DEFINITION. Which operations a mode has: the "select" condition of each row of spec/opcode_table.json, which tells
apart the rows that share an `op` code (R70 to R77, R99). -/

namespace Sys2Proof

open Machine

/-- An admitted access to a cell of the file (R70, R71). -/
def inRange (m : Mode) (width : BitVec 4) (offset : Word) : Bool :=
  admitted m.variant width offset && decide (indexOf offset < m.vd.n)

/-- An admitted access to a cell with one of the given policy tags (R58). -/
def selects (m : Mode) (width : BitVec 4) (offset : Word) (tags : List Policy) : Bool :=
  inRange m width offset && tags.contains (policy m (indexOf offset))

/-- The row's select condition in mode `m`. -/
def Instr.wf (m : Mode) : Instr → Bool
  | .construct _ _ _ _ _ => true
  | .reset => true
  | .pclkqA => pllAlg m.variant == .a
  | .pclkqB => pllAlg m.variant == .b
  | .rdBuserr w o => !admitted m.variant w o
  | .wrBuserr w o _ => !admitted m.variant w o
  | .rdOor w o => admitted m.variant w o && decide (m.vd.n ≤ indexOf o)
  | .wrOor w o _ => admitted m.variant w o && decide (m.vd.n ≤ indexOf o)
  | .rdPlain w o => selects m w o [.plain, .ro, .key, .w1s, .w1c, .w1sp]
  | .rdRng w o => selects m w o [.rng]
  | .rdWowarn w o => selects m w o [.wowarn]
  | .wrPlain w o _ => selects m w o [.plain, .wowarn]
  | .wrRo w o _ => selects m w o [.ro]
  | .wrKey w o _ => selects m w o [.key]
  | .wrW1s w o _ => selects m w o [.w1s]
  | .wrW1c w o _ => selects m w o [.w1c]
  | .wrW1sp w o _ => selects m w o [.w1sp]
  | .wrRng w o _ => selects m w o [.rng]
  | .rsvdOp47 _ => true
  | .rsvdOp8F _ => true

/-- `i` is an operation of a block in mode `m`. -/
abbrev Instr.WellFormed (m : Mode) (i : Instr) : Prop := i.wf m = true

end Sys2Proof
end

