-- ==== Sys2Proof/Decode.lean ====
section
/-! DEFINITION. The decoder of the boundary words, total on every `TW` and every `CFG` (R51, R53, R56, R61), and the
encoder, both written from the field tables of 30_encoding.md. Which row an access is depends on the mode (R62). -/

namespace Sys2Proof

open Machine

/-- Why a boundary word is no operation. -/
inductive Reject where
  /-- A transaction word with no constructed instance to take it: "no operation can be issued" (R116). -/
  | noDevice
  deriving DecidableEq, Repr

/-- `TW.op`, bits 71:68 (R51). -/
def twOp (w : BitVec 72) : BitVec 4 := w.extractLsb' 68 4

/-- `TW.width`, bits 67:64 (R51). -/
def twWidth (w : BitVec 72) : BitVec 4 := w.extractLsb' 64 4

/-- `TW.offset`, bits 63:32 (R51). -/
def twOffset (w : BitVec 72) : Word := w.extractLsb' 32 32

/-- `TW.wdata`, bits 31:0 (R51). -/
def twWdata (w : BitVec 72) : Word := w.extractLsb' 0 32

/-- The row of a read (R70, R72, R77). -/
def decodeRead (m : Mode) (w : BitVec 4) (o : Word) : Instr :=
  if admitted m.variant w o then
    if indexOf o < m.vd.n then
      match policy m (indexOf o) with
      | .rng => .rdRng w o
      | .wowarn => .rdWowarn w o
      | .plain => .rdPlain w o
      | .ro => .rdPlain w o
      | .key => .rdPlain w o
      | .w1s => .rdPlain w o
      | .w1c => .rdPlain w o
      | .w1sp => .rdPlain w o
    else .rdOor w o
  else .rdBuserr w o

/-- The row of a write (R70, R73, R76). -/
def decodeWrite (m : Mode) (w : BitVec 4) (o d : Word) : Instr :=
  if admitted m.variant w o then
    if indexOf o < m.vd.n then
      match policy m (indexOf o) with
      | .plain => .wrPlain w o d
      | .wowarn => .wrPlain w o d
      | .ro => .wrRo w o d
      | .key => .wrKey w o d
      | .w1s => .wrW1s w o d
      | .w1c => .wrW1c w o d
      | .w1sp => .wrW1sp w o d
      | .rng => .wrRng w o d
    else .wrOor w o d
  else .wrBuserr w o d

/-- The row of a frequency query (R99, R100). -/
def decodeQuery (m : Mode) : Instr :=
  match pllAlg m.variant with
  | .a => .pclkqA
  | .b => .pclkqB

/-- The row of a transaction word in mode `m`; codes 0x4 to 0xF are the reserved rows (R51, R56). -/
def decodeTw (m : Mode) (w : BitVec 72) : Instr :=
  if twOp w = 0 then decodeRead m (twWidth w) (twOffset w)
  else if twOp w = 1 then decodeWrite m (twWidth w) (twOffset w) (twWdata w)
  else if twOp w = 2 then .reset
  else if twOp w = 3 then decodeQuery m
  else if twOp w < 8 then .rsvdOp47 (w.extractLsb' 68 2)
  else .rsvdOp8F (w.extractLsb' 68 3)

/-- The construction a configuration word asks for (R53). -/
def decodeCfg (w : BitVec 130) : Instr :=
  .construct (w.extractLsb' 128 2) (w.extractLsb' 96 32) (w.extractLsb' 64 32) (w.extractLsb' 32 32)
    (w.extractLsb' 0 32)

/-- The operation of a boundary word; `none` stands for a block that is not constructed. -/
def decode : Option Mode → Request → Except Reject Instr
  | _, .cfg w => .ok (decodeCfg w)
  | some m, .tw w => .ok (decodeTw m w)
  | none, .tw _ => .error .noDevice

/-- `TW = {op, width, offset, wdata}` (R51). -/
def mkTw (op width : BitVec 4) (offset wdata : Word) : BitVec 72 := op ++ width ++ offset ++ wdata

/-- `CFG = {variant, silicon_rev, hw_strap1, hw_strap2, hw_prot_key}` (R53). -/
def mkCfg (variant : BitVec 2) (rev s1 s2 key : Word) : BitVec 130 := variant ++ rev ++ s1 ++ s2 ++ key

/-- The boundary word of an operation, ignored fields zero, "the canonical form" (R51). -/
def encode : Instr → Request
  | .construct v rev s1 s2 key => .cfg (mkCfg v rev s1 s2 key)
  | .reset => .tw (mkTw 2 0 0 0)
  | .pclkqA => .tw (mkTw 3 0 0 0)
  | .pclkqB => .tw (mkTw 3 0 0 0)
  | .rdBuserr w o => .tw (mkTw 0 w o 0)
  | .wrBuserr w o d => .tw (mkTw 1 w o d)
  | .rdOor w o => .tw (mkTw 0 w o 0)
  | .wrOor w o d => .tw (mkTw 1 w o d)
  | .rdPlain w o => .tw (mkTw 0 w o 0)
  | .rdRng w o => .tw (mkTw 0 w o 0)
  | .rdWowarn w o => .tw (mkTw 0 w o 0)
  | .wrPlain w o d => .tw (mkTw 1 w o d)
  | .wrRo w o d => .tw (mkTw 1 w o d)
  | .wrKey w o d => .tw (mkTw 1 w o d)
  | .wrW1s w o d => .tw (mkTw 1 w o d)
  | .wrW1c w o d => .tw (mkTw 1 w o d)
  | .wrW1sp w o d => .tw (mkTw 1 w o d)
  | .wrRng w o d => .tw (mkTw 1 w o d)
  | .rsvdOp47 r => .tw (mkTw ((1 : BitVec 2) ++ r) 0 0 0)
  | .rsvdOp8F r => .tw (mkTw ((1 : BitVec 1) ++ r) 0 0 0)

/-- The boundary word whose bits are `w`, of `nbits` bits with the rest 0: a configuration word where `nbits` is more
than a transaction word has, a transaction word otherwise. -/
def requestOfBits (nbits w : Nat) : Request :=
  if nbits ≤ 72 then .tw (BitVec.ofNat 72 (w % 2 ^ nbits)) else .cfg (BitVec.ofNat 130 (w % 2 ^ nbits))

/-- What the decoder reads, in the mode of `State.reset`, from a word numbered as the opcode table numbers it. -/
def decodeTableWord (nbits w : Nat) : Option Instr :=
  if w < 2 ^ (if nbits ≤ 72 then 72 else 130) then
    match decode (some refMode) (requestOfBits nbits w) with
    | .ok i => some i
    | .error _ => none
  else none

end Sys2Proof
end

