-- ==== Sys2Proof/Machine/State.lean ====
section
/-! DEFINITION. The state: the instance (configuration and RegisterFile), the parameter record, and at the boundary the
operations and random words delivered to the block and the outputs of the last operation. Plain data throughout. -/

namespace Sys2Proof.Machine

/-- The diagnostics of one operation, a set: one member a code of R110. -/
structure Diag where
  /-- `DIAG_OOR`, bit 0 (R111). -/
  oor : Bool := false
  /-- `DIAG_RO_WRITE`, bit 1 (R112). -/
  roWrite : Bool := false
  /-- `DIAG_LOCKED`, bit 2 (R113). -/
  locked : Bool := false
  /-- `DIAG_WO_READ`, bit 3 (R114). -/
  woRead : Bool := false
  /-- `DIAG_WRITE_PROTECTED`, bit 4 (R112). -/
  writeProtected : Bool := false
  deriving DecidableEq, Repr

/-- How an operation was answered: `resp` of R50, or the refusal of a construction (`cfg_error`, R116). -/
inductive Resp where
  /-- `OK`. -/
  | ok
  /-- `ERR`: a boundary rejection or a reserved `op` code (R115, R56). -/
  | err
  /-- `CfgError`: no instance was constructed (R116). -/
  | cfgError
  deriving DecidableEq, Repr

/-- The outputs of one operation (R50). A value that is no output of the operation (U4) is `none`. -/
structure Output where
  resp : Resp := .ok
  /-- Read data: of an `RD`, and the unspecified word that goes with `ERR` (U3). -/
  rdata : Option Word := none
  diag : Diag := {}
  /-- The frequency a `PCLKQ` returns, `FREQ_W = 32` bits (R95). -/
  pclkHz : Option Word := none
  deriving DecidableEq, Repr

/-- A constructed instance: DeviceConfig and RegisterFile, "the whole mutable state" (R12, R13). -/
structure Device where
  cfg : DeviceConfig
  x : RegFile
  deriving DecidableEq, Repr

/-- The machine.
`params`: the parameter record (R3, R6), which no step changes. `dev`: the instance, `none` where none is constructed
(R116). `pending`: the operations delivered and not yet performed, in the one total order of R39, first one first.
`rngIn`: the words the injected random source has ready, first one first (R8, R38). `free`: the model's own count of
free values drawn. `out`: the outputs of the last operation (R50), which no rule reads (R18). -/
structure State where
  params : Params
  dev : Option Device
  pending : List Request
  rngIn : List Word
  free : Nat
  out : Output
  deriving DecidableEq, Repr

/-- Why the machine stops. -/
inductive Fault where
  /-- An operation was issued with no constructed instance: after a `CfgError` "no instance exists; no operation can be
  issued" (R116). Raised by every operation but `CONSTRUCT`. Safe: the hardware has no such step. -/
  | noInstance
  deriving DecidableEq, Repr

/-- Why an instruction has no meaning. -/
inductive Refusal where
  /-- The arm of `exec` is not modelled yet. Raised by `exec` alone, and by no arm of it now. Safe. -/
  | notModelled (mnemonic : String)
  deriving DecidableEq, Repr

/-- The machine right after the reset that ends construction (R130, R131): the REF parameters (log entries 2, 3), the
configuration of log entry 4, the file as `RESET` leaves it, nothing delivered, and the outputs of a `RESET`. -/
def State.reset : State where
  params := refParams
  dev := some ⟨refConfig, resetImage refMode.vd refConfig⟩
  pending := []
  rngIn := []
  free := 0
  out := {}

end Sys2Proof.Machine
end

