-- ==== Sys2Proof/Machine/Flags.lean ====
section
/-! DEFINITION. The block's flags: the lock state read off the key cell (R15), the guarded range (R16), and the
diagnostics each stage adds (R110 to R114). There are no condition codes (R18). -/

namespace Sys2Proof.Machine

/-- The diagnostics of two stages together (R76: "the union of what the stages add"). -/
def Diag.union (a b : Diag) : Diag where
  oor := a.oor || b.oor
  roWrite := a.roWrite || b.roWrite
  locked := a.locked || b.locked
  woRead := a.woRead || b.woRead
  writeProtected := a.writeProtected || b.writeProtected

/-- The `diag` output, one bit a code in the order of R110. -/
def Diag.bits (g : Diag) : BitVec 5 :=
  BitVec.ofBool g.writeProtected ++ BitVec.ofBool g.woRead ++ BitVec.ofBool g.locked
    ++ BitVec.ofBool g.roWrite ++ BitVec.ofBool g.oor

/-- `locked ≡ (x[K] = 0)` (R15), the mode `LOCKED` of R121. -/
def isLocked (vd : Descriptor) (x : RegFile) : Bool := RegFile.cell x vd.k == 0

/-- `i` is in the guarded range `K < i < LOCK_HI` (R16). -/
def guarded (vd : Descriptor) (i : Nat) : Bool := decide (vd.k < i) && decide (i < vd.lockHi)

/-- `violation` of R74. -/
def lockViolation (vd : Descriptor) (x : RegFile) (i : Nat) : Bool := guarded vd i && isLocked vd x

/-- What the lock gate adds (R74). -/
def gateDiag (vd : Descriptor) (x : RegFile) (i : Nat) : Diag := { locked := lockViolation vd x i }

end Sys2Proof.Machine
end

