-- ==== Sys2Proof/Machine/Ops.lean ====
section
/-! DEFINITION. The shared operations: fetching the next delivered operation, answering an operation, drawing a random
word, raising `BusError` and `CfgError` (R115, R116; the block takes no trap and returns from none, R120), and the
passage of a write through the lock gate to its policy (R74 to R76). -/

namespace Sys2Proof.Machine

/-- The outcome of one operation. -/
abbrev Result := Host.Outcome State Fault Refusal

/-- The state with outputs `o`. -/
def State.setOut (s : State) (o : Output) : State := { s with out := o }

/-- The state with instance `d`. -/
def State.setDev (s : State) (d : Option Device) : State := { s with dev := d }

/-- The state with instance `d` whose file is now `x`. -/
def State.setFile (s : State) (d : Device) (x : RegFile) : State := { s with dev := some { d with x := x } }

/-- The state with the operations `q` still to perform. -/
def State.setPending (s : State) (q : List Request) : State := { s with pending := q }

/-- The descriptor of the instance `d`. -/
def State.vd (s : State) (d : Device) : Descriptor := vdOf s.params d.cfg.variant

/-- The mode words are decoded in: none without an instance. -/
def State.mode (s : State) : Option Mode := s.dev.map fun d => modeOf s.params d.cfg.variant

/-- The next operation in the order of delivery (R39), with the state it is performed in. -/
def fetch (s : State) : Option (Request × State) :=
  match s.pending with
  | [] => none
  | r :: rest => some (r, s.setPending rest)

/-- With nothing delivered the block "does nothing between operations" (R17). -/
def idle (s : State) : Result := .next s

/-- A word that is no operation: none can be issued without an instance (R116). -/
def rejectWord : Reject → Result
  | .noDevice => .fault .noInstance

/-- An operation on the instance; without one it cannot be issued (R116). -/
def withDevice (s : State) (f : Device → Result) : Result :=
  match s.dev with
  | none => .fault .noInstance
  | some d => f d

/-- Answer with outputs `o`, everything else as it is. -/
def reply (s : State) (o : Output) : Result := .next (s.setOut o)

/-- Answer with outputs `o` and the file `x`. -/
def replyFile (s : State) (d : Device) (x : RegFile) (o : Output) : Result := .next ((s.setFile d x).setOut o)

/-- Answer `ERR`: the state unchanged, no diagnostic, no draw taken, `rdata` unspecified (U3), a free value. -/
def respondErr (s : State) : Result :=
  .next { s with free := s.free + 1, out := { resp := .err, rdata := some (Config.freeRdata s.free) } }

/-- `raise BusError` (R115). -/
def raiseBusError (s : State) : Result := withDevice s fun _ => respondErr s

/-- The refusal of a reserved `op` code (R56). -/
def refuseReserved (s : State) : Result := withDevice s fun _ => respondErr s

/-- `raise CfgError`: "no instance exists" (R116). -/
def raiseCfgError (s : State) : Result := .next ((s.setDev none).setOut { resp := .cfgError })

/-- The word the next `draw32()` takes: the injected source's, or a free value (R8, R38, U1). -/
def State.draw (s : State) : Word :=
  match s.rngIn with
  | [] => Config.freeDraw s.free
  | r :: _ => r

/-- The state after `draw32()`: exactly one word is taken. -/
def State.drawn (s : State) : State :=
  match s.rngIn with
  | [] => { s with free := s.free + 1 }
  | _ :: rest => { s with rngIn := rest }

/-- What a policy makes of a write: the file after it and the diagnostics it adds. -/
structure Effect where
  x : RegFile
  diag : Diag := {}
  deriving DecidableEq, Repr

/-- An in-range write (R76): the lock gate on the pre-write key cell (R74), which with `LOCK_BLOCKS` drops the write
(R75), then the cell's policy. -/
def gatedWrite (offset : Word) (s : State) (policyWrite : Descriptor → RegFile → Effect) : Result :=
  withDevice s fun d =>
    if lockViolation (s.vd d) d.x (indexOf offset) && (s.vd d).lockBlocks then
      reply s { diag := gateDiag (s.vd d) d.x (indexOf offset) }
    else
      replyFile s d (policyWrite (s.vd d) d.x).x
        { diag := (gateDiag (s.vd d) d.x (indexOf offset)).union (policyWrite (s.vd d) d.x).diag }

/-- An in-range read that changes nothing: the cell masked to the access width (R77), with the policy's diagnostics. -/
def plainRead (width : BitVec 4) (offset : Word) (s : State) (diag : Diag) : Result :=
  withDevice s fun d =>
    reply s { rdata := some (readData width (RegFile.cell d.x (indexOf offset))), diag := diag }

/-- The write policy accumulate-OR (R83, R85). -/
def accumulateOr (x : RegFile) (i : Nat) (val : Word) : RegFile := RegFile.put x i (RegFile.cell x i ||| val)

/-- The write policy paired clear: the complement ANDed into the target `t` (R84). -/
def clearBits (x : RegFile) (t : Nat) (val : Word) : RegFile := RegFile.put x t (RegFile.cell x t &&& ~~~val)

end Sys2Proof.Machine
end

