-- ==== Sys2Proof/Machine/Boundary.lean ====
section
/-! DEFINITION. The operations that reach no cell: the boundary rejections (R70), the out-of-range accesses (R72, R73)
and the reserved codes (R56). -/

namespace Sys2Proof.Machine

/-- `RD.BUSERR` (R70, R115). -/
def execRdBuserr (_width : BitVec 4) (_offset : Word) (s : State) : Result := raiseBusError s

/-- `WR.BUSERR` (R70, R115). -/
def execWrBuserr (_width : BitVec 4) (_offset _wdata : Word) (s : State) : Result := raiseBusError s

/-- `RD.OOR` (R72): returns 0 for every width and reports `DIAG_OOR`. -/
def execRdOor (_width : BitVec 4) (_offset : Word) (s : State) : Result :=
  withDevice s fun _ => reply s { rdata := some 0, diag := { oor := true } }

/-- `WR.OOR` (R73): dropped, reports `DIAG_OOR`, the lock gate not evaluated. -/
def execWrOor (_width : BitVec 4) (_offset _wdata : Word) (s : State) : Result :=
  withDevice s fun _ => reply s { diag := { oor := true } }

/-- `RSVD.OP4_7` (R56). -/
def execRsvdOp47 (_r : BitVec 2) (s : State) : Result := refuseReserved s

/-- `RSVD.OP8_F` (R56). -/
def execRsvdOp8F (_r : BitVec 3) (s : State) : Result := refuseReserved s

end Sys2Proof.Machine
end

