-- ==== Sys2Proof/Machine/Clock.lean ====
section
/-! DEFINITION. Clock derivation (43_clock_derivation.md): non-negative integers with truncating division, the one
product reduced modulo `2^32` (R95), and the frequency query. Pure: no state, no diagnostic, no draw. -/

namespace Sys2Proof.Machine

/-- `CLKIN(cfg)` in Hz, from the construction-time strap word (R96). -/
def clkin (vd : Descriptor) (cfg : DeviceConfig) : Nat :=
  if bitOf cfg.hwStrap1 vd.clkin25mBit then 25000000
  else if bitOf cfg.hwStrap1 vd.clkin48mBit then 48000000
  else 24000000

/-- A frequency is `FREQ_W = 32` bits wide, and the product wraps (R95). -/
def wrapHz (hz : Nat) : Nat := hz % 2 ^ 32

/-- `A_TABLE[row][col]` in Hz (R97). -/
def strapTable (vd : Descriptor) (row col : Nat) : Nat := ((vd.aTable.getD row []).getD col 0).toNat

/-- The multiplier of Algorithm A (R97), `2 - od` with `od` one bit. -/
def multiplierA (vd : Descriptor) (h : Word) : Nat :=
  (2 - (bitOf h vd.aOdBit).toNat) * ((fieldOf h vd.aFb + 2) / (fieldOf h vd.aDiv + 1))

/-- `PLL_A(h, cfg)` (R97). -/
def pllA (vd : Descriptor) (cfg : DeviceConfig) (h : Word) : Nat :=
  if bitOf h vd.aOffBit then 0
  else if bitOf h vd.aProgBit then wrapHz (clkin vd cfg * multiplierA vd h)
  else strapTable vd (bitOf cfg.hwStrap1 vd.a25mBit).toNat (fieldOf cfg.hwStrap1 vd.aFsel)

/-- The multiplier of Algorithm B (R98). -/
def multiplierB (vd : Descriptor) (h : Word) : Nat :=
  if bitOf h vd.bBypassBit then 1
  else ((fieldOf h vd.bM + 1) / (fieldOf h vd.bN + 1)) / (fieldOf h vd.bP + 1)

/-- `PLL_B(h, cfg)` (R98). -/
def pllB (vd : Descriptor) (cfg : DeviceConfig) (h : Word) : Nat :=
  if bitOf h vd.bOffBit then 0 else wrapHz (clkin vd cfg * multiplierB vd h)

/-- `PLL_OUT(x, cfg)` (R99). -/
def pllOut (vd : Descriptor) (cfg : DeviceConfig) (x : RegFile) : Nat :=
  match pllAlg cfg.variant with
  | .a => pllA vd cfg (RegFile.cell x vd.hpll)
  | .b => pllB vd cfg (RegFile.cell x vd.hpll)

/-- The last two lines of R100: the PLL output divided by the clock-select divider, then by `BUS_DIV`. -/
def busClock (vd : Descriptor) (cfg : DeviceConfig) (x : RegFile) (out : Nat) : Nat :=
  (out / (fieldOf (RegFile.cell x vd.clksel) vd.pclkDiv + 1)) / busDiv cfg.variant

/-- `PCLKQ.A` (R100 with Algorithm A). -/
def execPclkqA (s : State) : Result :=
  withDevice s fun d =>
    reply s { pclkHz := some (BitVec.ofNat 32
      (busClock (s.vd d) d.cfg d.x (pllA (s.vd d) d.cfg (RegFile.cell d.x (s.vd d).hpll)))) }

/-- `PCLKQ.B` (R100 with Algorithm B). -/
def execPclkqB (s : State) : Result :=
  withDevice s fun d =>
    reply s { pclkHz := some (BitVec.ofNat 32
      (busClock (s.vd d) d.cfg d.x (pllB (s.vd d) d.cfg (RegFile.cell d.x (s.vd d).hpll)))) }

end Sys2Proof.Machine
end

