-- ==== Sys2Proof/Machine/Lifecycle.lean ====
section
/-! DEFINITION. Construction and reset (70_reset_and_hazards.md). -/

namespace Sys2Proof.Machine

/-- `RESET` (R131): the whole file reloaded, whatever it held, the lock state and every policy ignored; no draw. -/
def execReset (s : State) : Result :=
  withDevice s fun d => replyFile s d (resetImage (s.vd d) d.cfg) {}

/-- The instance a construction makes: reset once, so that no cell is unwritten (R130). -/
def construct (p : Params) (cfg : DeviceConfig) : Device := ⟨cfg, resetImage (vdOf p cfg.variant) cfg⟩

/-- `CONSTRUCT` (R130): refused for the reserved variant code and for a revision outside the allow-list; otherwise the
instance the machine now holds (log entry 7). -/
def execConstruct (code : BitVec 2) (rev s1 s2 key : Word) (s : State) : Result :=
  match variantOfCode code with
  | none => raiseCfgError s
  | some v =>
    if s.params.revAllow.contains rev then
      .next ((s.setDev (some (construct s.params ⟨v, rev, s1, s2, key⟩))).setOut {})
    else raiseCfgError s

end Sys2Proof.Machine
end

