-- ==== Sys2Proof/Machine/Read.lean ====
section
/-! DEFINITION. The read policies (42_read_policies.md). No read consults the lock state (R77). -/

namespace Sys2Proof.Machine

/-- `RD.PLAIN` (R90). -/
def execRdPlain (width : BitVec 4) (offset : Word) (s : State) : Result := plainRead width offset s {}

/-- `RD.WOWARN` (R92): the stored value, flagged `DIAG_WO_READ`. -/
def execRdWowarn (width : BitVec 4) (offset : Word) (s : State) : Result :=
  plainRead width offset s { woRead := true }

/-- `RD.RNG` (R91): one draw replaces the whole cell and is what the read returns, masked to the width. -/
def execRdRng (width : BitVec 4) (offset : Word) (s : State) : Result :=
  withDevice s fun d =>
    replyFile s.drawn d (RegFile.put d.x (indexOf offset) s.draw) { rdata := some (readData width s.draw) }

end Sys2Proof.Machine
end

