-- ==== Sys2Proof/Machine/Write.lean ====
section
/-! DEFINITION. The write policies (41_write_policies.md), and the write of each tag: its policy behind the lock gate. A
missing pairing, which R7(c) rules out, drops the write (log entry 8). -/

namespace Sys2Proof.Machine

/-- The policy of R80: all 32 bits are replaced by the zero-extended value. -/
def plainPolicy (width : BitVec 4) (offset wdata : Word) (_vd : Descriptor) (x : RegFile) : Effect :=
  { x := RegFile.put x (indexOf offset) (writeValue width wdata) }

/-- The policy of R81 and R86: rejected, `DIAG_RO_WRITE`. -/
def rejectPolicy (_vd : Descriptor) (x : RegFile) : Effect := { x := x, diag := { roWrite := true } }

/-- The policy of R82: 1 for the unlock constant, 0 for any other value. -/
def keyPolicy (unlock : Word) (width : BitVec 4) (offset wdata : Word) (_vd : Descriptor) (x : RegFile) : Effect :=
  { x := RegFile.put x (indexOf offset) (if writeValue width wdata = unlock then 1 else 0) }

/-- The policy of R83: accumulate-OR. -/
def setPolicy (width : BitVec 4) (offset wdata : Word) (_vd : Descriptor) (x : RegFile) : Effect :=
  { x := accumulateOr x (indexOf offset) (writeValue width wdata) }

/-- The policy of R84: clears bits of the paired target, not of the cell itself. -/
def clearPolicy (width : BitVec 4) (offset wdata : Word) (vd : Descriptor) (x : RegFile) : Effect :=
  match clrTarget vd (indexOf offset) with
  | some t => { x := clearBits x t (writeValue width wdata) }
  | none => { x := x }

/-- The policy of R85: dropped with `DIAG_WRITE_PROTECTED` where the strap's protect cell is non-zero, else
accumulate-OR. -/
def strapPolicy (width : BitVec 4) (offset wdata : Word) (vd : Descriptor) (x : RegFile) : Effect :=
  match protectCell vd (indexOf offset) with
  | some p =>
    if RegFile.cell x p ≠ 0 then { x := x, diag := { writeProtected := true } }
    else { x := accumulateOr x (indexOf offset) (writeValue width wdata) }
  | none => { x := x }

/-- `WR.PLAIN` (R80). -/
def execWrPlain (width : BitVec 4) (offset wdata : Word) (s : State) : Result :=
  gatedWrite offset s (plainPolicy width offset wdata)

/-- `WR.RO` (R81). -/
def execWrRo (_width : BitVec 4) (offset _wdata : Word) (s : State) : Result := gatedWrite offset s rejectPolicy

/-- `WR.KEY` (R82). -/
def execWrKey (width : BitVec 4) (offset wdata : Word) (s : State) : Result :=
  gatedWrite offset s (keyPolicy s.params.unlockConst width offset wdata)

/-- `WR.W1S` (R83). -/
def execWrW1s (width : BitVec 4) (offset wdata : Word) (s : State) : Result :=
  gatedWrite offset s (setPolicy width offset wdata)

/-- `WR.W1C` (R84). -/
def execWrW1c (width : BitVec 4) (offset wdata : Word) (s : State) : Result :=
  gatedWrite offset s (clearPolicy width offset wdata)

/-- `WR.W1SP` (R85). -/
def execWrW1sp (width : BitVec 4) (offset wdata : Word) (s : State) : Result :=
  gatedWrite offset s (strapPolicy width offset wdata)

/-- `WR.RNG` (R86): rejected as read-only, no draw taken. -/
def execWrRng (_width : BitVec 4) (offset _wdata : Word) (s : State) : Result := gatedWrite offset s rejectPolicy

end Sys2Proof.Machine
end

