-- ==== Sys2Proof/Machine/Dispatch.lean ====
section
/-! DEFINITION. The meaning of every operation: one arm a row of spec/opcode_table.json. -/

namespace Sys2Proof.Machine

def exec (i : Instr) (s : State) : Host.Outcome State Fault Refusal :=
  match i with
  -- the composition layer's operations and the frequency query
  | .construct code rev s1 s2 key => Sys2Proof.Machine.execConstruct code rev s1 s2 key s
  | .reset => Sys2Proof.Machine.execReset s
  | .pclkqA => Sys2Proof.Machine.execPclkqA s
  | .pclkqB => Sys2Proof.Machine.execPclkqB s
  -- boundary rejections and the out-of-range space
  | .rdBuserr w o => Sys2Proof.Machine.execRdBuserr w o s
  | .wrBuserr w o d => Sys2Proof.Machine.execWrBuserr w o d s
  | .rdOor w o => Sys2Proof.Machine.execRdOor w o s
  | .wrOor w o d => Sys2Proof.Machine.execWrOor w o d s
  -- read policies
  | .rdPlain w o => Sys2Proof.Machine.execRdPlain w o s
  | .rdRng w o => Sys2Proof.Machine.execRdRng w o s
  | .rdWowarn w o => Sys2Proof.Machine.execRdWowarn w o s
  -- write policies
  | .wrPlain w o d => Sys2Proof.Machine.execWrPlain w o d s
  | .wrRo w o d => Sys2Proof.Machine.execWrRo w o d s
  | .wrKey w o d => Sys2Proof.Machine.execWrKey w o d s
  | .wrW1s w o d => Sys2Proof.Machine.execWrW1s w o d s
  | .wrW1c w o d => Sys2Proof.Machine.execWrW1c w o d s
  | .wrW1sp w o d => Sys2Proof.Machine.execWrW1sp w o d s
  | .wrRng w o d => Sys2Proof.Machine.execWrRng w o d s
  -- reserved codes
  | .rsvdOp47 r => Sys2Proof.Machine.execRsvdOp47 r s
  | .rsvdOp8F r => Sys2Proof.Machine.execRsvdOp8F r s

end Sys2Proof.Machine
end

