-- ==== Sys2Proof/Machine/Step.lean ====
section
/-! DEFINITION. One step: the next delivered operation, decoded in the instance's mode and performed whole (R17, R39,
R40). -/

namespace Sys2Proof.Machine

/-- One step of the machine. -/
def step (s : State) : Host.Outcome State Fault Refusal :=
  match fetch s with
  | none => idle s
  | some (r, t) =>
    match decode t.mode r with
    | .ok i => exec i t
    | .error e => rejectWord e

/-- `s` with the boundary word of bits `w` delivered before everything still pending. -/
def State.withFetchWord (s : State) (nbits w : Nat) : State :=
  s.setPending (requestOfBits nbits w :: s.pending)

end Sys2Proof.Machine
end

