-- ==== Sys2Proof/Machine/Agents.lean ====
section
/-! DEFINITION. How the block's agents (R138) put their moves into boundary words: the pseudo-operations of R64, each
"an abbreviation of one `WR`", and the fabric's little-endian byte accesses (R36, 00_scope.md section 5). The step
never uses them. -/

namespace Sys2Proof.Machine

/-- `WR.4 4*i, v`. -/
def writeCellWord (i : Nat) (v : Word) : Request := .tw (mkTw 1 4 (BitVec.ofNat 32 (4 * i)) v)

/-- `UNLOCK` (R64). -/
def unlockWord (p : Params) (v : Variant) : Request := writeCellWord (vdOf p v).k p.unlockConst

/-- `LOCK` (R64). -/
def lockWord (p : Params) (v : Variant) : Request := writeCellWord (vdOf p v).k 0

/-- `SETBITS t, m` (R64). -/
def setBitsWord (t : Nat) (m : Word) : Request := writeCellWord t m

/-- `CLRBITS t, m` (R64): a write of the clear cell `c` with `CLR_OF[c] = t`, where there is one. R7 lets a target have
several clear cells: the first one listed is taken (DESIGN CHOICE: log entry 23). -/
def clrBitsWord (vd : Descriptor) (t : Nat) (m : Word) : Option Request :=
  (vd.clrOf.find? fun p => p.2 == t).map fun p => writeCellWord p.1 m

/-- `FREEZE s` (R64): a write of 1 to the strap's protect cell, where it has one. -/
def freezeWord (vd : Descriptor) (s : Nat) : Option Request :=
  (protectCell vd s).map fun p => writeCellWord p 1

/-- The value of a byte sequence, the byte at the lowest address in `value[7:0]` (R36). -/
def leValue : List Byte → Nat
  | [] => 0
  | b :: bs => b.toNat + 256 * leValue bs

/-- The `n` bytes of a value, lowest address first (R36). -/
def leBytes : Nat → Nat → List Byte
  | 0, _ => []
  | n + 1, v => BitVec.ofNat 8 v :: leBytes n (v / 256)

/-- `MemWrite(addr, n, v)` as it arrives: `WR.n (addr - base), v`. The spec does not speak of 16 bytes or more, a count
the width field of R51 cannot carry: there is no word for them (DESIGN CHOICE: log entry 21). -/
def memWriteWord (base addr : Word) (bytes : List Byte) : Option Request :=
  if bytes.length < 16 then
    some (.tw (mkTw 1 (BitVec.ofNat 4 bytes.length) (addr - base) (BitVec.ofNat 32 (leValue bytes))))
  else none

/-- `MemRead(addr, n)` as it arrives: `RD.n (addr - base)`. -/
def memReadWord (base addr : Word) (n : BitVec 4) : Request := .tw (mkTw 0 n (addr - base) 0)

end Sys2Proof.Machine
end

