-- ==== Sys2Proof/Safety.lean ====
section
/-! DEFINITION. What the statements speak of: the invariant of a run, and the sorts of rows the spec's prose names
together (in-range writes, operations that change no cell, what may change a cell). -/

namespace Sys2Proof

open Machine

/-- What holds of an instance between operations: the file has the variant's cell count (R10); every read-only cell
still holds what reset loaded (R81(b)); every clear cell still holds its default (R84(a)); and the revision is one the
allow-list has (R130). -/
def Machine.Device.Inv (p : Params) (d : Device) : Prop :=
  d.cfg.siliconRev ∈ p.revAllow
    ∧ RegFile.wf (vdOf p d.cfg.variant).n d.x = true
    ∧ (∀ i ∈ (vdOf p d.cfg.variant).roSet,
        RegFile.cell d.x i = RegFile.cell (resetImage (vdOf p d.cfg.variant) d.cfg) i)
    ∧ (∀ c ∈ (vdOf p d.cfg.variant).clrOf.map Prod.fst,
        RegFile.cell d.x c = RegFile.cell (vdOf p d.cfg.variant).defaults c)

/-- The invariant of a run: a well-formed parameter record (R7), and the invariant of the instance if there is one. -/
def Machine.State.Inv (s : State) : Prop :=
  s.params.wf = true ∧ ∀ d, s.dev = some d → Device.Inv s.params d

/-- The offset of an in-range write: the rows R76 sends to a policy. -/
def Instr.writeOffset : Instr → Option Word
  | .wrPlain _ o _ => some o
  | .wrRo _ o _ => some o
  | .wrKey _ o _ => some o
  | .wrW1s _ o _ => some o
  | .wrW1c _ o _ => some o
  | .wrW1sp _ o _ => some o
  | .wrRng _ o _ => some o
  | .construct _ _ _ _ _ => none
  | .reset => none
  | .pclkqA => none
  | .pclkqB => none
  | .rdBuserr _ _ => none
  | .wrBuserr _ _ _ => none
  | .rdOor _ _ => none
  | .wrOor _ _ _ => none
  | .rdPlain _ _ => none
  | .rdRng _ _ => none
  | .rdWowarn _ _ => none
  | .rsvdOp47 _ => none
  | .rsvdOp8F _ => none

/-- The rows that change no cell, whatever the state: reads other than the random-data read, the out-of-range
accesses, the rejected writes, the frequency query, and everything answered `ERR`. -/
def Instr.keepsFile : Instr → Bool
  | .rdPlain _ _ => true
  | .rdWowarn _ _ => true
  | .rdOor _ _ => true
  | .wrOor _ _ _ => true
  | .rdBuserr _ _ => true
  | .wrBuserr _ _ _ => true
  | .wrRo _ _ _ => true
  | .wrRng _ _ _ => true
  | .pclkqA => true
  | .pclkqB => true
  | .rsvdOp47 _ => true
  | .rsvdOp8F _ => true
  | .wrPlain _ _ _ => false
  | .wrKey _ _ _ => false
  | .wrW1s _ _ _ => false
  | .wrW1c _ _ _ => false
  | .wrW1sp _ _ _ => false
  | .rdRng _ _ => false
  | .construct _ _ _ _ _ => false
  | .reset => false

/-- The rows that may change cell `j` of an instance with descriptor `vd` (R14). A bound, not the exact effect: a strap
write is allowed its own cell whether or not its protect cell lets it, and a construction every cell (log entry 7). -/
def Instr.mayChange (vd : Descriptor) (j : Nat) : Instr → Prop
  | .construct _ _ _ _ _ => True
  | .reset => True
  | .rdRng _ o => j = indexOf o ∧ j = vd.rngData
  | .wrPlain _ o _ => j = indexOf o
  | .wrKey _ o _ => j = indexOf o ∧ j = vd.k
  | .wrW1s _ o _ => j = indexOf o
  | .wrW1sp _ o _ => j = indexOf o
  | .wrW1c _ o _ => clrTarget vd (indexOf o) = some j
  | .wrRo _ _ _ => False
  | .wrRng _ _ _ => False
  | .pclkqA => False
  | .pclkqB => False
  | .rdBuserr _ _ => False
  | .wrBuserr _ _ _ => False
  | .rdOor _ _ => False
  | .wrOor _ _ _ => False
  | .rdPlain _ _ => False
  | .rdWowarn _ _ => False
  | .rsvdOp47 _ => False
  | .rsvdOp8F _ => False

/-- The lock gate lets the write at `o` through to its policy: it blocks only with `LOCK_BLOCKS` (R74, R75). -/
def GateOpen (vd : Descriptor) (x : RegFile) (o : Word) : Prop :=
  vd.lockBlocks = true → ¬ (vd.k < indexOf o ∧ indexOf o < vd.lockHi ∧ RegFile.cell x vd.k = 0)

/-- The report of the lock gate on a write at `o`: `DIAG_LOCKED` exactly where the guarded range is written while
locked (R74). -/
def lockedReport (vd : Descriptor) (x : RegFile) (o : Word) : Bool :=
  decide (vd.k < indexOf o ∧ indexOf o < vd.lockHi ∧ RegFile.cell x vd.k = 0)

/-- The protect cells are not the key cell: R22 and R59 call them plain words, R7 does not say it (log entry 22). -/
def protectApart (vd : Descriptor) : Prop := ∀ s p, protectCell vd s = some p → p ≠ vd.k

end Sys2Proof
end

