-- ==== Sys2Proof/Certificates/Slice0/Obligations.lean ====
section
/-! DEFINITION. The statements for the provers, from the numbered rules of spec/. Every statement that names a
descriptor holds for every record `s.params` carries; where a rule needs R7, the premise says so. -/

open Sys2Proof Sys2Proof.Machine

/-! ### Encodings -/

/-- Decode and encode agree (R51, R53): in every mode every row with its select condition, every operand at every
value, comes back; a construction also where no instance exists. -/
def Obligations.DecodeOfEncodeIsTheOperation : Prop :=
  (∀ (m : Mode) (i : Instr), i.WellFormed m → decode (some m) (encode i) = .ok i)
    ∧ ∀ (c : BitVec 2) (rev s1 s2 key : Word),
        decode none (encode (.construct c rev s1 s2 key)) = .ok (.construct c rev s1 s2 key)

/-- R78: every boundary word is exactly one row of the table: the decoder gives one, its select condition holds, and no
other row with that condition has the same canonical word. -/
def Obligations.EveryWordIsExactlyOneRow : Prop :=
  ∀ (m : Mode) (r : Request), ∃ i, decode (some m) r = .ok i ∧ i.WellFormed m
    ∧ ∀ j : Instr, j.WellFormed m → encode j = encode i → j = i

/-- R51: which bits are which field, read off the number the word is, and which fields an operation ignores. -/
def Obligations.TransactionWordFields : Prop :=
  ∀ (m : Mode) (w : BitVec 72),
    (w.toNat / 2 ^ 68 = 0 → decode (some m) (.tw w)
      = .ok (decodeRead m (BitVec.ofNat 4 (w.toNat / 2 ^ 64)) (BitVec.ofNat 32 (w.toNat / 2 ^ 32))))
    ∧ (w.toNat / 2 ^ 68 = 1 → decode (some m) (.tw w)
      = .ok (decodeWrite m (BitVec.ofNat 4 (w.toNat / 2 ^ 64)) (BitVec.ofNat 32 (w.toNat / 2 ^ 32))
          (BitVec.ofNat 32 w.toNat)))
    ∧ (w.toNat / 2 ^ 68 = 2 → decode (some m) (.tw w) = .ok .reset)
    ∧ (w.toNat / 2 ^ 68 = 3 → decode (some m) (.tw w) = .ok (decodeQuery m))
    ∧ (4 ≤ w.toNat / 2 ^ 68 → w.toNat / 2 ^ 68 < 8 → decode (some m) (.tw w)
      = .ok (.rsvdOp47 (BitVec.ofNat 2 (w.toNat / 2 ^ 68))))
    ∧ (8 ≤ w.toNat / 2 ^ 68 → decode (some m) (.tw w)
      = .ok (.rsvdOp8F (BitVec.ofNat 3 (w.toNat / 2 ^ 68))))
    ∧ encode .reset = .tw (BitVec.ofNat 72 (2 * 2 ^ 68))
    ∧ encode .pclkqA = .tw (BitVec.ofNat 72 (3 * 2 ^ 68)) ∧ encode .pclkqB = .tw (BitVec.ofNat 72 (3 * 2 ^ 68))

/-- R53: the fields of the configuration word, the variant of each code, and code 3, which fails. -/
def Obligations.ConfigurationWordFields : Prop :=
  (∀ (m : Option Mode) (w : BitVec 130), decode m (.cfg w)
      = .ok (.construct (BitVec.ofNat 2 (w.toNat / 2 ^ 128)) (BitVec.ofNat 32 (w.toNat / 2 ^ 96))
          (BitVec.ofNat 32 (w.toNat / 2 ^ 64)) (BitVec.ofNat 32 (w.toNat / 2 ^ 32)) (BitVec.ofNat 32 w.toNat)))
    ∧ variantOfCode 0 = some .old ∧ variantOfCode 1 = some .mid ∧ variantOfCode 2 = some .new
    ∧ ∀ (rev s1 s2 key : Word) (s : State), ∃ t, exec (.construct 3 rev s1 s2 key) s = .next t
        ∧ t.dev = none ∧ t.out.resp = .cfgError

/-- A few words written out from R51, R52 and the vectors VD15, VD16, VW13, VR2, VX1, VD17 of 95_test_vectors.md, in the
reference modes. -/
def Obligations.WordsOfTheVectorsDecode : Prop :=
  decode (some (modeOf refParams .new)) (.tw 0x140000050400000001) = .ok (.wrW1c 4 0x504 1)
    ∧ decode (some (modeOf refParams .old)) (.tw 0x140000050400000001) = .ok (.wrOor 4 0x504 1)
    ∧ decode (some (modeOf refParams .new)) (.tw 0x14000000400000000F) = .ok (.wrW1s 4 0x040 0xF)
    ∧ decode (some (modeOf refParams .new)) (.tw 0x040000001400000000) = .ok (.rdPlain 4 0x014)
    ∧ decode (some (modeOf refParams .new)) (.tw 0x400000000000000000) = .ok (.rsvdOp47 0)
    ∧ decode none (.cfg 0x1040103030000000000000000_1688A8A8)
        = .ok (.construct 1 0x04010303 0 0 0x1688A8A8)

/-- R56: an `op` code 0x4 to 0xF is refused with `ERR` and changes nothing; variant code 3 is refused with
`CfgError`. -/
def Obligations.ReservedEncodingsAreRefused : Prop :=
  (∀ (s : State) (d : Device) (w : BitVec 72) (rest : List Request), s.dev = some d →
    s.pending = .tw w :: rest → 4 ≤ w.toNat / 2 ^ 68 →
      ∃ t, step s = .next t ∧ t.out.resp = .err ∧ t.out.diag = {} ∧ t.dev = some d ∧ t.params = s.params
        ∧ t.pending = rest ∧ t.rngIn = s.rngIn)
    ∧ ∀ (s : State) (w : BitVec 130) (rest : List Request), s.pending = .cfg w :: rest →
        w.toNat / 2 ^ 128 = 3 → ∃ t, step s = .next t ∧ t.out.resp = .cfgError ∧ t.dev = none

/-- R58: with a record R7 admits, the policy of a cell is the class that names it, whatever the order of the lines.
A protect cell that a record puts in a class has that class's tag: the model's choice (log entry 22). -/
def Obligations.PolicyIsTheClassThatNamesTheCell : Prop :=
  ∀ (p : Params) (v : Variant), p.wf = true → ∀ i : Nat,
    (policy (modeOf p v) i = .key ↔ i = (vdOf p v).k)
    ∧ (policy (modeOf p v) i = .ro ↔ i ∈ (vdOf p v).roSet)
    ∧ (policy (modeOf p v) i = .rng ↔ i = (vdOf p v).rngData)
    ∧ (policy (modeOf p v) i = .wowarn ↔ i ∈ (vdOf p v).woWarnSet)
    ∧ (policy (modeOf p v) i = .w1sp ↔ v = .new ∧ (i = (vdOf p v).strap1 ∨ i = (vdOf p v).strap2))
    ∧ (policy (modeOf p v) i = .w1s ↔ v = .new ∧ i ∈ (vdOf p v).w1sSet)
    ∧ (policy (modeOf p v) i = .w1c ↔ v = .new ∧ i ∈ (vdOf p v).clrOf.map Prod.fst)
    ∧ (policy (modeOf p v) i = .plain ↔
        i ≠ (vdOf p v).k ∧ i ∉ (vdOf p v).roSet ∧ i ≠ (vdOf p v).rngData ∧ i ∉ (vdOf p v).woWarnSet
        ∧ (v = .new → i ≠ (vdOf p v).strap1 ∧ i ≠ (vdOf p v).strap2 ∧ i ∉ (vdOf p v).w1sSet
            ∧ i ∉ (vdOf p v).clrOf.map Prod.fst))

/-! ### The step -/

/-- The next delivered operation is decoded in the instance's mode and is what the step performs, on the state without
it; with nothing delivered nothing happens (R17, R39). -/
def Obligations.StepRunsTheDecodedOperation : Prop :=
  (∀ (s : State) (r : Request) (rest : List Request) (i : Instr),
    s.pending = r :: rest → decode s.mode r = .ok i → step s = exec i (s.setPending rest))
    ∧ ∀ s : State, s.pending = [] → step s = .next s

/-- R78: for a constructed instance every transaction word is answered: the step never stops, and the instance stays,
with its configuration and its number of cells. -/
def Obligations.EveryAccessIsAnswered : Prop :=
  ∀ (s : State) (d : Device) (w : BitVec 72) (rest : List Request),
    s.Inv → s.dev = some d → s.pending = .tw w :: rest →
      ∃ t d', step s = .next t ∧ t.dev = some d' ∧ d'.cfg = d.cfg ∧ d'.x.length = (s.vd d).n
        ∧ t.pending = rest ∧ t.params = s.params

/-- "No instance exists; no operation can be issued" (R116): every row but `CONSTRUCT` stops by name, and so does the
step of a transaction word. -/
def Obligations.NoOperationWithoutAnInstance : Prop :=
  ∀ s : State, s.dev = none →
    (∀ i : Instr, (∀ c rev s1 s2 key, i ≠ .construct c rev s1 s2 key) → exec i s = .fault .noInstance)
    ∧ ∀ (w : BitVec 72) (rest : List Request), s.pending = .tw w :: rest → step s = .fault .noInstance

/-- The invariant holds of the state after reset. The values of that state that the spec does not give are the model's
(log entries 2, 3 and 4). -/
def Obligations.ResetStateMeetsTheInvariant : Prop := State.reset.Inv

/-- Every step keeps the invariant: the parameters stay well-formed, no cell is added or lost, every read-only cell keeps
what reset loaded, every clear cell keeps its default (R10, R81(b), R84(a)). -/
def Obligations.EveryStepKeepsTheInvariant : Prop :=
  ∀ s t : State, s.Inv → step s = .next t → t.Inv

/-- After R14, a bound on what a step may change a cell by. It is weaker than R14 on a strap write, which may change its
cell here whatever its protect cell holds. Its construction case, with an instance already held, is the model's choice
(log entry 7). -/
def Obligations.CellsChangeOnlyByTheseOperations : Prop :=
  ∀ (s t : State) (d d' : Device) (j : Nat), s.Inv → s.dev = some d → step s = .next t → t.dev = some d' →
    RegFile.cell d'.x j ≠ RegFile.cell d.x j →
      ∃ r rest i, s.pending = r :: rest ∧ decode s.mode r = .ok i ∧ i.mayChange (s.vd d) j

/-- The parameters never change (R3), and the configuration only by a construction (R9, R12). -/
def Obligations.ConfigurationIsImmutable : Prop :=
  ∀ s t : State, step s = .next t → t.params = s.params
    ∧ ∀ (w : BitVec 72) (rest : List Request), s.pending = .tw w :: rest →
        t.dev.map Device.cfg = s.dev.map Device.cfg

/-- The state after reset is a fixed point of `RESET` and shows the configured words (R131). Which configuration and
which parameters these are is the model's choice (log entries 2, 3 and 4). -/
def Obligations.ResetStateIsJustReset : Prop :=
  exec .reset State.reset = .next State.reset
    ∧ ∃ d, State.reset.dev = some d ∧ d.cfg = refConfig
        ∧ RegFile.cell d.x 0 = refConfig.hwProtKey ∧ RegFile.cell d.x 5 = refConfig.siliconRev
        ∧ RegFile.cell d.x 1 = refNew.revAliasA1 ∧ RegFile.cell d.x 320 = refConfig.hwStrap1
        ∧ RegFile.cell d.x 324 = refConfig.hwStrap2

/-! ### The boundary and the out-of-range space -/

/-- R70: an access is rejected exactly where its width or alignment is not admitted, before any other check, with `ERR`,
no diagnostic, no draw and nothing changed; its read data is the free value of log entry 6. -/
def Obligations.BoundaryRejectsUnadmittedAccesses : Prop :=
  ∀ (s : State) (d : Device) (w : BitVec 4) (o wd : Word), s.dev = some d →
    (decodeRead (modeOf s.params d.cfg.variant) w o = .rdBuserr w o ↔
      ¬ (if d.cfg.variant = .old then 1 ≤ w.toNat ∧ w.toNat ≤ 4 else w.toNat = 4 ∧ o.toNat % 4 = 0))
    ∧ (decodeWrite (modeOf s.params d.cfg.variant) w o wd = .wrBuserr w o wd ↔
      ¬ (if d.cfg.variant = .old then 1 ≤ w.toNat ∧ w.toNat ≤ 4 else w.toNat = 4 ∧ o.toNat % 4 = 0))
    ∧ exec (.rdBuserr w o) s
        = .next { s with free := s.free + 1, out := ⟨.err, some (Config.freeRdata s.free), {}, none⟩ }
    ∧ exec (.wrBuserr w o wd) s
        = .next { s with free := s.free + 1, out := ⟨.err, some (Config.freeRdata s.free), {}, none⟩ }

/-- The rows of the reserved codes answer `ERR` and change nothing but the count of free values (R56, U3). -/
def Obligations.ReservedRowsAnswerErr : Prop :=
  ∀ (s : State) (d : Device) (r : BitVec 2) (r' : BitVec 3), s.dev = some d →
    exec (.rsvdOp47 r) s
        = .next { s with free := s.free + 1, out := ⟨.err, some (Config.freeRdata s.free), {}, none⟩ }
    ∧ exec (.rsvdOp8F r') s
        = .next { s with free := s.free + 1, out := ⟨.err, some (Config.freeRdata s.free), {}, none⟩ }

/-- R71: `index = offset[31:2]`; the two low bits select nothing. -/
def Obligations.OffsetResolvesToIndex : Prop :=
  ∀ o : Word, indexOf o = o.toNat / 4
    ∧ ∀ (m : Mode) (w : BitVec 4) (wd : Word), admitted m.variant w o = true →
        (m.vd.n ≤ o.toNat / 4 ↔ decodeRead m w o = .rdOor w o)
        ∧ (m.vd.n ≤ o.toNat / 4 ↔ decodeWrite m w o wd = .wrOor w o wd)

/-- R72: an admitted read of the out-of-range space returns 0 with `DIAG_OOR` and changes nothing. -/
def Obligations.OutOfRangeReadReturnsZero : Prop :=
  ∀ (s : State) (d : Device) (w : BitVec 4) (o : Word), s.dev = some d →
    (admitted d.cfg.variant w o = true → (s.vd d).n ≤ o.toNat / 4 →
      decodeRead (modeOf s.params d.cfg.variant) w o = .rdOor w o)
    ∧ exec (.rdOor w o) s = .next { s with out := ⟨.ok, some 0, ⟨true, false, false, false, false⟩, none⟩ }

/-- R73: an admitted write to the out-of-range space changes nothing and reports `DIAG_OOR` alone. -/
def Obligations.OutOfRangeWriteIsDropped : Prop :=
  ∀ (s : State) (d : Device) (w : BitVec 4) (o wd : Word), s.dev = some d →
    (admitted d.cfg.variant w o = true → (s.vd d).n ≤ o.toNat / 4 →
      decodeWrite (modeOf s.params d.cfg.variant) w o wd = .wrOor w o wd)
    ∧ exec (.wrOor w o wd) s = .next { s with out := ⟨.ok, none, ⟨true, false, false, false, false⟩, none⟩ }

/-- R57: the write value and the read data are the low `8*w` bits. -/
def Obligations.OperandsAreMaskedToTheWidth : Prop :=
  ∀ (w : BitVec 4) (v : Word),
    (writeValue w v).toNat = v.toNat % 2 ^ (8 * w.toNat) ∧ (readData w v).toNat = v.toNat % 2 ^ (8 * w.toNat)

/-- R34, R35: an access acts on the one cell `x[offset >> 2]`; offsets of the same cell do the same, whatever
`offset[1:0]` is. -/
def Obligations.LowOffsetBitsSelectNothing : Prop :=
  ∀ (s : State) (w : BitVec 4) (o o' wd : Word), o.toNat / 4 = o'.toNat / 4 →
    exec (.rdPlain w o) s = exec (.rdPlain w o') s ∧ exec (.rdRng w o) s = exec (.rdRng w o') s
    ∧ exec (.rdWowarn w o) s = exec (.rdWowarn w o') s ∧ exec (.wrPlain w o wd) s = exec (.wrPlain w o' wd) s
    ∧ exec (.wrRo w o wd) s = exec (.wrRo w o' wd) s ∧ exec (.wrKey w o wd) s = exec (.wrKey w o' wd) s
    ∧ exec (.wrW1s w o wd) s = exec (.wrW1s w o' wd) s ∧ exec (.wrW1c w o wd) s = exec (.wrW1c w o' wd) s
    ∧ exec (.wrW1sp w o wd) s = exec (.wrW1sp w o' wd) s ∧ exec (.wrRng w o wd) s = exec (.wrRng w o' wd) s

/-! ### The lock gate -/

/-- R74, R75: every in-range write is answered `OK` and reports `DIAG_LOCKED` exactly where it writes the guarded range
while locked; it is dropped, with nothing else reported, only there and only with `LOCK_BLOCKS`. -/
def Obligations.LockGateOnEveryWrite : Prop :=
  ∀ (s : State) (d : Device) (i : Instr) (o : Word), s.dev = some d → i.writeOffset = some o →
    ∃ t, exec i s = .next t ∧ t.out.resp = .ok ∧ t.out.diag.locked = lockedReport (s.vd d) d.x o
      ∧ (lockedReport (s.vd d) d.x o = true → (s.vd d).lockBlocks = true →
          t = { s with out := ⟨.ok, none, ⟨false, false, true, false, false⟩, none⟩ })

/-- R122: the mode is entered by a write of the key cell (`UNLOCKED` for the unlock constant, `LOCKED` for any other
value, from either mode), by `RESET` as the seed says, and nothing else but a construction changes it. -/
def Obligations.LockModeTransitions : Prop :=
  ∀ (s : State) (d : Device), s.Inv → s.dev = some d →
    (∀ (w : BitVec 4) (o wd : Word), (Instr.wrKey w o wd).WellFormed (modeOf s.params d.cfg.variant) →
      ∃ t d', exec (.wrKey w o wd) s = .next t ∧ t.dev = some d'
        ∧ isLocked (s.vd d) d'.x = decide (writeValue w wd ≠ s.params.unlockConst))
    ∧ (∃ t d', exec .reset s = .next t ∧ t.dev = some d'
        ∧ isLocked (s.vd d) d'.x = decide (d.cfg.hwProtKey = 0))
    ∧ ∀ (i : Instr) (t : State) (d' : Device), i.WellFormed (modeOf s.params d.cfg.variant) →
        exec i s = .next t → t.dev = some d' → isLocked (s.vd d) d'.x ≠ isLocked (s.vd d) d.x →
          i = .reset ∨ (∃ w o wd, i = .wrKey w o wd) ∨ ∃ c rev s1 s2 key, i = .construct c rev s1 s2 key

/-- R123: with the normative `LOCK_BLOCKS = false`, a write to a cell other than the key cell does the same to every
other cell in either mode: two states that differ in the key cell alone are changed alike. -/
def Obligations.LockStateChangesNoEffect : Prop :=
  ∀ (s s' : State) (d d' : Device) (i : Instr) (o : Word),
    s.Inv → s'.Inv → s.dev = some d → s'.dev = some d' → s'.params = s.params → d'.cfg = d.cfg →
    (∀ j, j ≠ (s.vd d).k → RegFile.cell d'.x j = RegFile.cell d.x j) →
    (s.vd d).lockBlocks = false → protectApart (s.vd d) →
    i.WellFormed (modeOf s.params d.cfg.variant) → i.writeOffset = some o → indexOf o ≠ (s.vd d).k →
      ∃ t t' e e', exec i s = .next t ∧ exec i s' = .next t' ∧ t.dev = some e ∧ t'.dev = some e'
        ∧ (∀ j, j ≠ (s.vd d).k → RegFile.cell e'.x j = RegFile.cell e.x j)
        ∧ RegFile.cell e.x (s.vd d).k = RegFile.cell d.x (s.vd d).k
        ∧ t'.out.resp = t.out.resp
        ∧ { t'.out.diag with locked := false } = { t.out.diag with locked := false }

/-! ### Write policies -/

/-- R80: a plain write replaces all 32 bits of the cell with the zero-extended value; so it does on the write-only-warn
cells. -/
def Obligations.PlainWriteReplacesTheCell : Prop :=
  ∀ (s : State) (d : Device) (w : BitVec 4) (o wd : Word), s.dev = some d →
    (inRange (modeOf s.params d.cfg.variant) w o = true →
      (policy (modeOf s.params d.cfg.variant) (indexOf o) = .plain
        ∨ policy (modeOf s.params d.cfg.variant) (indexOf o) = .wowarn) →
      decodeWrite (modeOf s.params d.cfg.variant) w o wd = .wrPlain w o wd)
    ∧ (GateOpen (s.vd d) d.x o → exec (.wrPlain w o wd) s
        = .next { s with dev := some ⟨d.cfg, RegFile.put d.x (indexOf o) (writeValue w wd)⟩,
                         out := ⟨.ok, none, ⟨false, false, lockedReport (s.vd d) d.x o, false, false⟩, none⟩ })

/-- R81: a write to a read-only cell changes nothing and reports `DIAG_RO_WRITE`. -/
def Obligations.ReadOnlyWriteIsRejected : Prop :=
  ∀ (s : State) (d : Device) (w : BitVec 4) (o wd : Word), s.dev = some d →
    (inRange (modeOf s.params d.cfg.variant) w o = true →
      policy (modeOf s.params d.cfg.variant) (indexOf o) = .ro →
      decodeWrite (modeOf s.params d.cfg.variant) w o wd = .wrRo w o wd)
    ∧ (GateOpen (s.vd d) d.x o → exec (.wrRo w o wd) s
        = .next { s with out := ⟨.ok, none, ⟨false, true, lockedReport (s.vd d) d.x o, false, false⟩, none⟩ })

/-- R82: the key cell becomes 1 for the unlock constant and 0 for any other value, whatever it held and whether the block
was locked; nothing is reported, the key cell being outside the guarded range. -/
def Obligations.KeyWriteSetsTheLockFlag : Prop :=
  ∀ (s : State) (d : Device) (w : BitVec 4) (o wd : Word), s.dev = some d → indexOf o = (s.vd d).k →
    (inRange (modeOf s.params d.cfg.variant) w o = true →
      decodeWrite (modeOf s.params d.cfg.variant) w o wd = .wrKey w o wd)
    ∧ exec (.wrKey w o wd) s
        = .next { s with
            dev := some ⟨d.cfg, RegFile.put d.x (s.vd d).k
              (if (writeValue w wd) = s.params.unlockConst then 1 else 0)⟩,
            out := ⟨.ok, none, {}, none⟩ }

/-- R83: accumulate-OR. -/
def Obligations.AccumulateOrSetsBits : Prop :=
  ∀ (s : State) (d : Device) (w : BitVec 4) (o wd : Word), s.dev = some d →
    (inRange (modeOf s.params d.cfg.variant) w o = true →
      policy (modeOf s.params d.cfg.variant) (indexOf o) = .w1s →
      decodeWrite (modeOf s.params d.cfg.variant) w o wd = .wrW1s w o wd)
    ∧ (GateOpen (s.vd d) d.x o → exec (.wrW1s w o wd) s
        = .next { s with
            dev := some ⟨d.cfg, RegFile.put d.x (indexOf o)
              (RegFile.cell d.x (indexOf o) ||| writeValue w wd)⟩,
            out := ⟨.ok, none, ⟨false, false, lockedReport (s.vd d) d.x o, false, false⟩, none⟩ })

/-- R84: the paired clear ANDs the complement of the value into the target `CLR_OF[index]`; the lock gate looks at the
clear cell's own index. -/
def Obligations.PairedClearClearsTheTarget : Prop :=
  ∀ (s : State) (d : Device) (w : BitVec 4) (o wd : Word) (t : Nat), s.dev = some d →
    clrTarget (s.vd d) (indexOf o) = some t →
    (inRange (modeOf s.params d.cfg.variant) w o = true →
      policy (modeOf s.params d.cfg.variant) (indexOf o) = .w1c →
      decodeWrite (modeOf s.params d.cfg.variant) w o wd = .wrW1c w o wd)
    ∧ (GateOpen (s.vd d) d.x o → exec (.wrW1c w o wd) s
        = .next { s with
            dev := some ⟨d.cfg, RegFile.put d.x t (RegFile.cell d.x t &&& ~~~(writeValue w wd))⟩,
            out := ⟨.ok, none, ⟨false, false, lockedReport (s.vd d) d.x o, false, false⟩, none⟩ })

/-- R85: a strap write is dropped entirely, with `DIAG_WRITE_PROTECTED`, where the strap's own protect cell is non-zero,
and accumulates otherwise. -/
def Obligations.StrapWriteConsultsItsProtectCell : Prop :=
  ∀ (s : State) (d : Device) (w : BitVec 4) (o wd : Word) (p : Nat), s.dev = some d →
    protectCell (s.vd d) (indexOf o) = some p →
    (inRange (modeOf s.params d.cfg.variant) w o = true →
      policy (modeOf s.params d.cfg.variant) (indexOf o) = .w1sp →
      decodeWrite (modeOf s.params d.cfg.variant) w o wd = .wrW1sp w o wd)
    ∧ (GateOpen (s.vd d) d.x o → RegFile.cell d.x p ≠ 0 → exec (.wrW1sp w o wd) s
        = .next { s with out := ⟨.ok, none, ⟨false, false, lockedReport (s.vd d) d.x o, false, true⟩, none⟩ })
    ∧ (GateOpen (s.vd d) d.x o → RegFile.cell d.x p = 0 → exec (.wrW1sp w o wd) s
        = .next { s with
            dev := some ⟨d.cfg, RegFile.put d.x (indexOf o)
              (RegFile.cell d.x (indexOf o) ||| writeValue w wd)⟩,
            out := ⟨.ok, none, ⟨false, false, lockedReport (s.vd d) d.x o, false, false⟩, none⟩ })

/-- R86: a write to the random-data cell is rejected as read-only and takes no draw. -/
def Obligations.RandomCellWriteIsRejected : Prop :=
  ∀ (s : State) (d : Device) (w : BitVec 4) (o wd : Word), s.dev = some d →
    (inRange (modeOf s.params d.cfg.variant) w o = true →
      policy (modeOf s.params d.cfg.variant) (indexOf o) = .rng →
      decodeWrite (modeOf s.params d.cfg.variant) w o wd = .wrRng w o wd)
    ∧ (GateOpen (s.vd d) d.x o → exec (.wrRng w o wd) s
        = .next { s with out := ⟨.ok, none, ⟨false, true, lockedReport (s.vd d) d.x o, false, false⟩, none⟩ })

/-- R87: set, then clear. A target written with `X` reads `previous | X`; its clear cell written with `X` leaves
`previous & ~X`. So for a strap whose protect cell is zero. -/
def Obligations.SetClearRoundTrip : Prop :=
  ∀ (s : State) (d : Device) (ot oc X : Word), s.Inv → s.dev = some d → d.cfg.variant = .new →
    (s.vd d).lockBlocks = false → ot.toNat % 4 = 0 → oc.toNat % 4 = 0 →
    clrTarget (s.vd d) (indexOf oc) = some (indexOf ot) →
    (indexOf ot ∈ (s.vd d).w1sSet
      ∨ ∃ p, protectCell (s.vd d) (indexOf ot) = some p ∧ RegFile.cell d.x p = 0) →
      (∃ t, Host.Core.run Sys2Proof.core 2 (s.setPending [.tw (mkTw 1 4 ot X), .tw (mkTw 0 4 ot 0)]) = .next t
        ∧ t.out.resp = .ok ∧ t.out.rdata = some (RegFile.cell d.x (indexOf ot) ||| X))
      ∧ ∃ t, Host.Core.run Sys2Proof.core 3
            (s.setPending [.tw (mkTw 1 4 ot X), .tw (mkTw 1 4 oc X), .tw (mkTw 0 4 ot 0)]) = .next t
        ∧ t.out.resp = .ok ∧ t.out.rdata = some (RegFile.cell d.x (indexOf ot) &&& ~~~X)

/-- A plain cell read after a plain write of it returns the value written, masked to both widths (R80, R90, R41). -/
def Obligations.PlainWriteThenReadReturnsIt : Prop :=
  ∀ (s : State) (d : Device) (w w' : BitVec 4) (o o' v z : Word), s.Inv → s.dev = some d →
    (s.vd d).lockBlocks = false → indexOf o' = indexOf o →
    inRange (modeOf s.params d.cfg.variant) w o = true → inRange (modeOf s.params d.cfg.variant) w' o' = true →
    policy (modeOf s.params d.cfg.variant) (indexOf o) = .plain →
      ∃ t, Host.Core.run Sys2Proof.core 2 (s.setPending [.tw (mkTw 1 w o v), .tw (mkTw 0 w' o' z)]) = .next t
        ∧ t.out = ⟨.ok, some (readData w' (writeValue w v)), {}, none⟩

/-! ### Read policies -/

/-- R90: a plain read returns the cell masked to the width and changes nothing. -/
def Obligations.PlainReadReturnsTheCell : Prop :=
  ∀ (s : State) (d : Device) (w : BitVec 4) (o : Word), s.dev = some d →
    (inRange (modeOf s.params d.cfg.variant) w o = true →
      policy (modeOf s.params d.cfg.variant) (indexOf o) ≠ .rng →
      policy (modeOf s.params d.cfg.variant) (indexOf o) ≠ .wowarn →
      decodeRead (modeOf s.params d.cfg.variant) w o = .rdPlain w o)
    ∧ exec (.rdPlain w o) s
        = .next { s with out := ⟨.ok, some (readData w (RegFile.cell d.x (indexOf o))), {}, none⟩ }

/-- R91: a read of the random-data cell replaces the whole cell by one draw and returns that draw masked to the width:
the next injected word, or a free value where none is waiting (log entry 5). -/
def Obligations.RandomReadReplacesTheCell : Prop :=
  ∀ (s : State) (d : Device) (w : BitVec 4) (o r : Word) (rs : List Word), s.dev = some d →
    (inRange (modeOf s.params d.cfg.variant) w o = true →
      policy (modeOf s.params d.cfg.variant) (indexOf o) = .rng →
      decodeRead (modeOf s.params d.cfg.variant) w o = .rdRng w o)
    ∧ (s.rngIn = r :: rs → exec (.rdRng w o) s
        = .next { s with dev := some ⟨d.cfg, RegFile.put d.x (indexOf o) r⟩, rngIn := rs,
                         out := ⟨.ok, some (readData w r), {}, none⟩ })
    ∧ (s.rngIn = [] → exec (.rdRng w o) s
        = .next { s with dev := some ⟨d.cfg, RegFile.put d.x (indexOf o) (Config.freeDraw s.free)⟩,
                         free := s.free + 1,
                         out := ⟨.ok, some (readData w (Config.freeDraw s.free)), {}, none⟩ })

/-- R92: a read of a write-only-warn cell returns the stored value, flagged `DIAG_WO_READ`. -/
def Obligations.WriteOnlyReadIsFlagged : Prop :=
  ∀ (s : State) (d : Device) (w : BitVec 4) (o : Word), s.dev = some d →
    (inRange (modeOf s.params d.cfg.variant) w o = true →
      policy (modeOf s.params d.cfg.variant) (indexOf o) = .wowarn →
      decodeRead (modeOf s.params d.cfg.variant) w o = .rdWowarn w o)
    ∧ exec (.rdWowarn w o) s
        = .next { s with out := ⟨.ok, some (readData w (RegFile.cell d.x (indexOf o))),
                                 ⟨false, false, false, true, false⟩, none⟩ }

/-- R90(b), R90(d): in a run a read-only cell reads as reset loaded it and a clear cell as its default. -/
def Obligations.ReadOnlyAndClearCellsReadAsReset : Prop :=
  ∀ (s : State) (d : Device) (w : BitVec 4) (o : Word), s.Inv → s.dev = some d →
    (indexOf o ∈ (s.vd d).roSet → ∃ t, exec (.rdPlain w o) s = .next t ∧ t.dev = some d
      ∧ t.out.rdata = some (readData w (RegFile.cell (resetImage (s.vd d) d.cfg) (indexOf o))))
    ∧ (indexOf o ∈ (s.vd d).clrOf.map Prod.fst → ∃ t, exec (.rdPlain w o) s = .next t ∧ t.dev = some d
      ∧ t.out.rdata = some (readData w (RegFile.cell (s.vd d).defaults (indexOf o))))

/-- "No other operation takes a draw" (R38): every row but the random-data read leaves the injected source as it is. -/
def Obligations.OnlyTheRandomReadTakesADraw : Prop :=
  ∀ (s t : State) (i : Instr), exec i s = .next t → (∀ w o, i ≠ .rdRng w o) → t.rngIn = s.rngIn

/-! ### Clock derivation -/

/-- R96: 25 MHz if its bit of the CONFIGURED strap word 1 is set, else 48 MHz if its bit is, else 24 MHz. -/
def Obligations.ClockInputSelection : Prop :=
  ∀ (vd : Descriptor) (cfg : DeviceConfig), clkin vd cfg =
    if cfg.hwStrap1.toNat / 2 ^ vd.clkin25mBit % 2 = 1 then 25000000
    else if cfg.hwStrap1.toNat / 2 ^ vd.clkin48mBit % 2 = 1 then 48000000 else 24000000

/-- R97: Algorithm A, with each field as the number its bits are. -/
def Obligations.AlgorithmA : Prop :=
  ∀ (vd : Descriptor) (cfg : DeviceConfig) (h : Word),
    pllA vd cfg h =
      if h.toNat / 2 ^ vd.aOffBit % 2 = 1 then 0
      else if h.toNat / 2 ^ vd.aProgBit % 2 = 1 then
        clkin vd cfg * ((2 - h.toNat / 2 ^ vd.aOdBit % 2)
          * ((h.toNat / 2 ^ vd.aFb.lo % 2 ^ (vd.aFb.hi + 1 - vd.aFb.lo) + 2)
              / (h.toNat / 2 ^ vd.aDiv.lo % 2 ^ (vd.aDiv.hi + 1 - vd.aDiv.lo) + 1))) % 2 ^ 32
      else ((vd.aTable.getD (cfg.hwStrap1.toNat / 2 ^ vd.a25mBit % 2) []).getD
        (cfg.hwStrap1.toNat / 2 ^ vd.aFsel.lo % 2 ^ (vd.aFsel.hi + 1 - vd.aFsel.lo)) 0).toNat

/-- R98: Algorithm B, with each field as the number its bits are. -/
def Obligations.AlgorithmB : Prop :=
  ∀ (vd : Descriptor) (cfg : DeviceConfig) (h : Word),
    pllB vd cfg h =
      if h.toNat / 2 ^ vd.bOffBit % 2 = 1 then 0
      else if h.toNat / 2 ^ vd.bBypassBit % 2 = 1 then clkin vd cfg % 2 ^ 32
      else clkin vd cfg * (((h.toNat / 2 ^ vd.bM.lo % 2 ^ (vd.bM.hi + 1 - vd.bM.lo) + 1)
          / (h.toNat / 2 ^ vd.bN.lo % 2 ^ (vd.bN.hi + 1 - vd.bN.lo) + 1))
          / (h.toNat / 2 ^ vd.bP.lo % 2 ^ (vd.bP.hi + 1 - vd.bP.lo) + 1)) % 2 ^ 32

/-- R100 with R99: `PCLKQ` on each variant: the variant's algorithm on the current `x[HPLL]`, divided by the clock-select
divider plus one and then by the bus divider 2, 4, 4; nothing but the outputs changes. -/
def Obligations.FrequencyQuery : Prop :=
  ∀ (s : State) (d : Device), s.dev = some d →
    (d.cfg.variant = .old → decodeQuery (modeOf s.params d.cfg.variant) = .pclkqA
      ∧ ∃ f : Word, exec .pclkqA s = .next { s with out := ⟨.ok, none, {}, some f⟩ }
        ∧ f.toNat = pllA (s.vd d) d.cfg (RegFile.cell d.x (s.vd d).hpll)
            / ((RegFile.cell d.x (s.vd d).clksel).toNat / 2 ^ (s.vd d).pclkDiv.lo
                % 2 ^ ((s.vd d).pclkDiv.hi + 1 - (s.vd d).pclkDiv.lo) + 1) / 2)
    ∧ (d.cfg.variant ≠ .old → decodeQuery (modeOf s.params d.cfg.variant) = .pclkqB
      ∧ ∃ f : Word, exec .pclkqB s = .next { s with out := ⟨.ok, none, {}, some f⟩ }
        ∧ f.toNat = pllB (s.vd d) d.cfg (RegFile.cell d.x (s.vd d).hpll)
            / ((RegFile.cell d.x (s.vd d).clksel).toNat / 2 ^ (s.vd d).pclkDiv.lo
                % 2 ^ ((s.vd d).pclkDiv.hi + 1 - (s.vd d).pclkDiv.lo) + 1) / 4)

/-- R100(a): with the PLL-off bit set the query returns 0 under either algorithm, whatever the other fields. -/
def Obligations.PllOffGivesZero : Prop :=
  ∀ (s : State) (d : Device), s.dev = some d →
    ((RegFile.cell d.x (s.vd d).hpll).getLsbD (s.vd d).aOffBit = true →
      exec .pclkqA s = .next { s with out := ⟨.ok, none, {}, some 0⟩ })
    ∧ ((RegFile.cell d.x (s.vd d).hpll).getLsbD (s.vd d).bOffBit = true →
      exec .pclkqB s = .next { s with out := ⟨.ok, none, {}, some 0⟩ })

/-- R101: off and programmed bits clear and the 25 MHz strap bit clear: exactly the entry of row 0 of the strap table. -/
def Obligations.StrapFallbackIsTheTableEntry : Prop :=
  ∀ (vd : Descriptor) (cfg : DeviceConfig) (h : Word), h.getLsbD vd.aOffBit = false → h.getLsbD vd.aProgBit = false →
    cfg.hwStrap1.getLsbD vd.a25mBit = false →
      pllA vd cfg h = ((vd.aTable.getD 0 []).getD
        (cfg.hwStrap1.toNat / 2 ^ vd.aFsel.lo % 2 ^ (vd.aFsel.hi + 1 - vd.aFsel.lo)) 0).toNat

/-- The two truncating divisions of R100 are one, by `(pdiv + 1) * BUS_DIV` (R100(d)), of the output R99 selects; the
result is at most `(2^32 - 1) / BUS_DIV` (43_clock_derivation.md section 5). -/
def Obligations.QueryIsOneDivisionAndBounded : Prop :=
  ∀ (s t : State) (d : Device) (f : Word), s.dev = some d →
    exec (decodeQuery (modeOf s.params d.cfg.variant)) s = .next t → t.out.pclkHz = some f →
      f.toNat = pllOut (s.vd d) d.cfg d.x
        / ((fieldOf (RegFile.cell d.x (s.vd d).clksel) (s.vd d).pclkDiv + 1) * busDiv d.cfg.variant)
      ∧ f.toNat ≤ (2 ^ 32 - 1) / busDiv d.cfg.variant

/-! ### Construction and reset -/

/-- R131: after `RESET` the identification, strap, key and (on `V_NEW`) alias cells show the configuration and the alias
word, every other cell its default, whatever the file held; nothing else changes. -/
def Obligations.ResetReloadsDefaultsThenConfiguration : Prop :=
  ∀ (s : State) (d : Device), s.params.wf = true → s.dev = some d →
    ∃ x' : RegFile, exec .reset s = .next { s with dev := some ⟨d.cfg, x'⟩, out := ⟨.ok, none, {}, none⟩ }
      ∧ x'.length = (s.vd d).n
      ∧ ∀ i, i < (s.vd d).n → RegFile.cell x' i =
          if i = (s.vd d).id then d.cfg.siliconRev
          else if i = (s.vd d).strap1 then d.cfg.hwStrap1
          else if i = (s.vd d).strap2 then d.cfg.hwStrap2
          else if i = (s.vd d).k then d.cfg.hwProtKey
          else if d.cfg.variant = .new ∧ i = (s.vd d).aliasCell then (s.vd d).revAliasA1
          else RegFile.cell (s.vd d).defaults i

/-- Two resets in a row leave the same state as one, and the result does not depend on what the file held (R131(a)). -/
def Obligations.ResetForgetsTheFile : Prop :=
  ∀ (s s' t : State) (d : Device) (x : RegFile), s.dev = some d → s' = { s with dev := some ⟨d.cfg, x⟩ } →
    exec .reset s = .next t → exec .reset s' = .next t ∧ exec .reset t = .next t

/-- R130: a variant code 0 to 2 with a revision of the allow-list constructs the instance, already reset; the straps and
the seed are not checked, nor the revision against the variant. That the instance is then the one the machine holds is
the model's choice (log entry 7). -/
def Obligations.ConstructionMakesAResetInstance : Prop :=
  ∀ (s : State) (c : BitVec 2) (v : Variant) (rev s1 s2 key : Word),
    ((c.toNat = 0 ∧ v = .old) ∨ (c.toNat = 1 ∧ v = .mid) ∨ (c.toNat = 2 ∧ v = .new)) → rev ∈ s.params.revAllow →
      ∃ d, exec (.construct c rev s1 s2 key) s = .next { s with dev := some d, out := ⟨.ok, none, {}, none⟩ }
        ∧ d.cfg = ⟨v, rev, s1, s2, key⟩
        ∧ exec .reset { s with dev := some d, out := ⟨.ok, none, {}, none⟩ }
            = .next { s with dev := some d, out := ⟨.ok, none, {}, none⟩ }

/-- R130, R116: the reserved variant code, or a revision outside the allow-list, fails with `CfgError` and leaves no
instance. -/
def Obligations.ConstructionFailsCleanly : Prop :=
  ∀ (s : State) (c : BitVec 2) (rev s1 s2 key : Word), (c.toNat = 3 ∨ rev ∉ s.params.revAllow) →
    exec (.construct c rev s1 s2 key) s
      = .next { s with dev := none, out := ⟨.cfgError, none, {}, none⟩ }

/-! ### Reports -/

/-- R119: the diagnostics of one operation are none, one, or `DIAG_LOCKED` with `DIAG_RO_WRITE` or with
`DIAG_WRITE_PROTECTED`; an operation with a diagnostic is answered `OK`; and the bit of each in the `diag` output
(R110). -/
def Obligations.DiagnosticSetsThatOccur : Prop :=
  (∀ (s t : State) (i : Instr), exec i s = .next t →
    t.out.diag.bits ∈ [0b00000#5, 0b00001#5, 0b00010#5, 0b00100#5, 0b01000#5, 0b10000#5, 0b00110#5, 0b10100#5]
    ∧ (t.out.diag ≠ {} → t.out.resp = .ok))
    ∧ ∀ g : Diag, g.bits.getLsbD 0 = g.oor ∧ g.bits.getLsbD 1 = g.roWrite ∧ g.bits.getLsbD 2 = g.locked
      ∧ g.bits.getLsbD 3 = g.woRead ∧ g.bits.getLsbD 4 = g.writeProtected

/-- An operation answered `ERR` took no effect: instance, random source and what is delivered are as before, and nothing
is reported (R115, R56, R120). -/
def Obligations.ErrLeavesEverythingAsItWas : Prop :=
  ∀ (s t : State) (i : Instr), exec i s = .next t → t.out.resp = .err →
    t.dev = s.dev ∧ t.params = s.params ∧ t.pending = s.pending ∧ t.rngIn = s.rngIn ∧ t.out.diag = {}

/-! ### Frames -/

/-- Frame of the rows that change no cell (reads but the random-data read, out-of-range accesses, rejected writes, the
queries, everything answered `ERR`): the whole instance, the parameters, the random source and what is delivered. -/
def Obligations.FrameOfRowsThatKeepTheFile : Prop :=
  ∀ (s t : State) (i : Instr), i.keepsFile = true → exec i s = .next t →
    t.dev = s.dev ∧ t.params = s.params ∧ t.pending = s.pending ∧ t.rngIn = s.rngIn

/-- Frame of the writes that store to their own cell (`WR.PLAIN`, `WR.KEY`, `WR.W1S`, `WR.W1SP`): every other cell, the
configuration, and all outside the instance but the outputs. -/
def Obligations.FrameOfWritesToTheirOwnCell : Prop :=
  ∀ (s t : State) (d : Device) (i : Instr) (o : Word), s.dev = some d → i.writeOffset = some o →
    (∀ w o' wd, i ≠ .wrW1c w o' wd) → exec i s = .next t →
      ∃ d', t = { s with dev := some d', out := t.out } ∧ d'.cfg = d.cfg ∧ d'.x.length = d.x.length
        ∧ ∀ j, j ≠ indexOf o → RegFile.cell d'.x j = RegFile.cell d.x j

/-- Frame of `WR.W1C`: every cell but the target `CLR_OF[index]`, the clear cell itself among them (R84). -/
def Obligations.FrameOfPairedClear : Prop :=
  ∀ (s t : State) (d : Device) (w : BitVec 4) (o wd : Word), s.dev = some d → exec (.wrW1c w o wd) s = .next t →
    ∃ d', t = { s with dev := some d', out := t.out } ∧ d'.cfg = d.cfg ∧ d'.x.length = d.x.length
      ∧ ∀ j, clrTarget (s.vd d) (indexOf o) ≠ some j → RegFile.cell d'.x j = RegFile.cell d.x j

/-- Frame of `RD.RNG`: every cell but the one read, the configuration, the parameters and what is delivered; of the
injected words at most the first is taken. -/
def Obligations.FrameOfRandomRead : Prop :=
  ∀ (s t : State) (d : Device) (w : BitVec 4) (o : Word), s.dev = some d → exec (.rdRng w o) s = .next t →
    ∃ d', t.dev = some d' ∧ d'.cfg = d.cfg ∧ d'.x.length = d.x.length
      ∧ (∀ j, j ≠ indexOf o → RegFile.cell d'.x j = RegFile.cell d.x j)
      ∧ t.params = s.params ∧ t.pending = s.pending ∧ t.rngIn = s.rngIn.tail

/-- Frame of `RESET` and `CONSTRUCT`: the parameters, the random source, the free values and what is delivered; no draw is
taken (R130(e), R131(c)). -/
def Obligations.FrameOfResetAndConstruction : Prop :=
  ∀ (s t : State) (c : BitVec 2) (rev s1 s2 key : Word),
    (exec .reset s = .next t → t = { s with dev := t.dev, out := t.out }
      ∧ t.dev.map Device.cfg = s.dev.map Device.cfg)
    ∧ (exec (.construct c rev s1 s2 key) s = .next t → t = { s with dev := t.dev, out := t.out })

/-! ### The agents -/

/-- R64: `UNLOCK` and `LOCK` are writes of the key cell: after the one the block is unlocked and the cell shows 1, after
the other, where the unlock constant is not 0, it is locked and the cell shows 0. -/
def Obligations.UnlockAndLockWords : Prop :=
  ∀ (s : State) (d : Device), s.Inv → s.dev = some d → 4 * (s.vd d).k < 2 ^ 32 →
    (∃ t d', step (s.setPending [unlockWord s.params d.cfg.variant]) = .next t ∧ t.dev = some d'
      ∧ RegFile.cell d'.x (s.vd d).k = 1 ∧ isLocked (s.vd d) d'.x = false)
    ∧ (s.params.unlockConst ≠ 0 →
      ∃ t d', step (s.setPending [lockWord s.params d.cfg.variant]) = .next t ∧ t.dev = some d'
        ∧ RegFile.cell d'.x (s.vd d).k = 0 ∧ isLocked (s.vd d) d'.x = true)

/-- R64: `CLRBITS t, m` writes a clear cell whose target is `t`; which one of several is the model's choice (log entry
23). -/
def Obligations.ClrBitsWordAddressesTheClearCell : Prop :=
  ∀ (p : Params) (v : Variant) (t : Nat) (m : Word) (r : Request), p.wf = true →
    clrBitsWord (vdOf p v) t m = some r →
      ∃ c, clrTarget (vdOf p v) c = some t ∧ r = .tw (mkTw 1 4 (BitVec.ofNat 32 (4 * c)) m)

/-- R36: the fabric is little-endian: the byte at the lowest address is `value[7:0]`, and bytes and value determine each
other. -/
def Obligations.FabricIsLittleEndian : Prop :=
  ∀ bs : List Byte, leBytes bs.length (leValue bs) = bs
    ∧ ∀ b : Byte, leValue (b :: bs) % 2 ^ 8 = b.toNat
end

