-- ==== Sys2Proof/Laws/Encoding.lean ====
section
/-! SUPPORT. The boundary words field by field: what number a word of given fields is, and which fields come back. -/

namespace Sys2Proof

/-- The number a transaction word is (R51). -/
theorem mkTw_toNat (op w : BitVec 4) (o d : Word) :
    (mkTw op w o d).toNat = op.toNat * 2 ^ 68 + w.toNat * 2 ^ 64 + o.toNat * 2 ^ 32 + d.toNat := by
  have ho := o.isLt
  have hd := d.isLt
  have hw := w.isLt
  simp only [mkTw, BitVec.toNat_append]
  rw [← Nat.shiftLeft_add_eq_or_of_lt hw, ← Nat.shiftLeft_add_eq_or_of_lt ho, ← Nat.shiftLeft_add_eq_or_of_lt hd]
  simp only [Nat.shiftLeft_eq]
  omega

/-- The number a configuration word is (R53). -/
theorem mkCfg_toNat (v : BitVec 2) (rev s1 s2 key : Word) :
    (mkCfg v rev s1 s2 key).toNat
      = v.toNat * 2 ^ 128 + rev.toNat * 2 ^ 96 + s1.toNat * 2 ^ 64 + s2.toNat * 2 ^ 32 + key.toNat := by
  have h1 := rev.isLt
  have h2 := s1.isLt
  have h3 := s2.isLt
  have h4 := key.isLt
  simp only [mkCfg, BitVec.toNat_append]
  rw [← Nat.shiftLeft_add_eq_or_of_lt h1, ← Nat.shiftLeft_add_eq_or_of_lt h2, ← Nat.shiftLeft_add_eq_or_of_lt h3,
    ← Nat.shiftLeft_add_eq_or_of_lt h4]
  simp only [Nat.shiftLeft_eq]
  omega

/-- Bits `lo` and up, `n` of them, as a number. -/
theorem extract_toNat {w : Nat} (x : BitVec w) (lo n : Nat) :
    (x.extractLsb' lo n).toNat = x.toNat / 2 ^ lo % 2 ^ n := by
  simp [BitVec.extractLsb'_toNat, Nat.shiftRight_eq_div_pow]

@[simp] theorem twOp_mkTw (op w : BitVec 4) (o d : Word) : twOp (mkTw op w o d) = op := by
  apply BitVec.eq_of_toNat_eq
  have h1 := op.isLt; have h2 := w.isLt; have h3 := o.isLt; have h4 := d.isLt
  rw [twOp, extract_toNat, mkTw_toNat]
  omega

@[simp] theorem twWidth_mkTw (op w : BitVec 4) (o d : Word) : twWidth (mkTw op w o d) = w := by
  apply BitVec.eq_of_toNat_eq
  have h1 := op.isLt; have h2 := w.isLt; have h3 := o.isLt; have h4 := d.isLt
  rw [twWidth, extract_toNat, mkTw_toNat]
  omega

@[simp] theorem twOffset_mkTw (op w : BitVec 4) (o d : Word) : twOffset (mkTw op w o d) = o := by
  apply BitVec.eq_of_toNat_eq
  have h1 := op.isLt; have h2 := w.isLt; have h3 := o.isLt; have h4 := d.isLt
  rw [twOffset, extract_toNat, mkTw_toNat]
  omega

@[simp] theorem twWdata_mkTw (op w : BitVec 4) (o d : Word) : twWdata (mkTw op w o d) = d := by
  apply BitVec.eq_of_toNat_eq
  have h1 := op.isLt; have h2 := w.isLt; have h3 := o.isLt; have h4 := d.isLt
  rw [twWdata, extract_toNat, mkTw_toNat]
  omega

end Sys2Proof
end

