-- ==== Sys2Proof/Laws/Layout.lean ====
section
/-! SUPPORT. What the well-formedness of a descriptor (R7) says, clause by clause, in the form proofs use it, and the
lookup in the pairing tables. -/

namespace Sys2Proof

open Machine

/-- The descriptor of each variant of a well-formed record is well-formed. -/
theorem Params.wf_vdOf {p : Params} (h : p.wf = true) (v : Variant) : (vdOf p v).wf v = true := by
  simp only [Params.wf, Bool.and_eq_true] at h
  cases v <;> simp [vdOf, h]

/-- R5: `N[V_OLD] = N[V_MID] < N[V_NEW]`. -/
theorem Params.wf_counts {p : Params} (h : p.wf = true) : p.old.n = p.mid.n ∧ p.mid.n < p.new.n := by
  simp only [Params.wf, Bool.and_eq_true, beq_iff_eq, decide_eq_true_eq] at h
  exact ⟨h.1.2, h.2⟩

/-- The nine clauses. -/
theorem Descriptor.wf_clauses {v : Variant} {vd : Descriptor} (h : vd.wf v = true) :
    wfIndexes v vd = true ∧ wfClasses v vd = true ∧ wfPairs v vd = true ∧ wfIdent v vd = true
      ∧ wfLock v vd = true ∧ wfStraps vd = true ∧ wfFields v vd = true ∧ wfSizes vd = true
      ∧ wfWarn v vd = true := by
  simpa [Descriptor.wf, and_assoc] using h

/-- R7(a) of the cells that are one index. -/
theorem Machine.wfIndexes_lt {v : Variant} {vd : Descriptor} (h : wfIndexes v vd = true) :
    vd.k < vd.n ∧ vd.id < vd.n ∧ vd.strap1 < vd.n ∧ vd.strap2 < vd.n ∧ vd.rngData < vd.n
      ∧ (v = .new → vd.aliasCell < vd.n) ∧ (∀ i ∈ vd.roSet, i < vd.n) ∧ (∀ i ∈ vd.w1sSet, i < vd.n)
      ∧ ∀ c t, (c, t) ∈ vd.clrOf → c < vd.n ∧ t < vd.n := by
  simp only [wfIndexes, List.all_append, List.all_cons, List.all_nil, Bool.and_eq_true, List.all_eq_true,
    decide_eq_true_eq, List.mem_map] at h
  obtain ⟨⟨⟨⟨⟨⟨⟨⟨h0, ha⟩, hw⟩, hr⟩, -⟩, hc⟩, ht⟩, -⟩, -⟩ := h
  refine ⟨h0.1, h0.2.1, h0.2.2.1, h0.2.2.2.1, h0.2.2.2.2.1, ?_, hr, hw, fun c t hm => ?_⟩
  · intro hv; simpa [hv] using ha
  · exact ⟨hc c ⟨_, hm, rfl⟩, ht t ⟨_, hm, rfl⟩⟩

/-- R7(b): what the disjointness of the classes says of the key cell, the read-only cells and the clear cells. -/
theorem Machine.wfClasses_apart {v : Variant} {vd : Descriptor} (h : wfClasses v vd = true) :
    (vd.k ∉ vd.roSet ∧ vd.k ≠ vd.rngData ∧ vd.k ∉ vd.woWarnSet ∧ vd.k ∉ vd.w1sSet ∧ vd.k ∉ vd.clrOf.map Prod.fst)
      ∧ (∀ i ∈ vd.roSet, i ≠ vd.rngData ∧ i ∉ vd.woWarnSet ∧ i ∉ vd.w1sSet ∧ i ∉ vd.clrOf.map Prod.fst)
      ∧ (vd.rngData ∉ vd.woWarnSet ∧ vd.rngData ∉ vd.w1sSet ∧ vd.rngData ∉ vd.clrOf.map Prod.fst)
      ∧ (∀ i ∈ vd.woWarnSet, i ∉ vd.w1sSet ∧ i ∉ vd.clrOf.map Prod.fst)
      ∧ (∀ i ∈ vd.w1sSet, i ∉ vd.clrOf.map Prod.fst)
      ∧ (v = .new → ∀ s, s = vd.strap1 ∨ s = vd.strap2 →
          s ≠ vd.k ∧ s ∉ vd.roSet ∧ s ≠ vd.rngData ∧ s ∉ vd.woWarnSet ∧ s ∉ vd.w1sSet
            ∧ s ∉ vd.clrOf.map Prod.fst) := by
  simp only [wfClasses, classesApart, List.all_cons, List.all_nil, List.contains_eq_mem, List.mem_singleton,
    Bool.and_eq_true, Bool.and_true, Bool.not_eq_true', List.all_eq_true, decide_eq_false_iff_not] at h
  obtain ⟨⟨k1, k2, k3, k4, k5, k6⟩, ⟨r1, r2, r3, r4, r5⟩, ⟨g1, g2, g3, g4⟩, ⟨w1, w2, w3⟩, ⟨s1, s2⟩, hs⟩ := h
  refine ⟨⟨k1, k2, k3, k4, k6⟩, fun i hi => ⟨r1 i hi, r2 i hi, r3 i hi, r5 i hi⟩, ⟨g1, g2, g4⟩,
    fun i hi => ⟨w1 i hi, w3 i hi⟩, fun i hi => s2 i hi, ?_⟩
  intro hv s hsm
  have hmem : s ∈ (if v = .new then [vd.strap1, vd.strap2] else []) := by simpa [hv] using hsm
  refine ⟨?_, fun hr => r4 s hr hmem, ?_, fun hw => w2 s hw hmem, fun hw => s1 s hw hmem, hs s hmem⟩
  · rintro rfl; exact k5 hmem
  · rintro rfl; exact g3 hmem

/-- R7(c) of the clear cells. -/
theorem Machine.wfPairs_clr {v : Variant} {vd : Descriptor} (h : wfPairs v vd = true) :
    (∀ c t, (c, t) ∈ vd.clrOf → t ∈ vd.w1sSet ∨ t = vd.strap1 ∨ t = vd.strap2)
      ∧ (vd.clrOf.map Prod.fst).Nodup
      ∧ (v ≠ .new → vd.clrOf = [] ∧ vd.protOf = [] ∧ vd.w1sSet = [])
      ∧ (v = .new → (protectCell vd vd.strap1).isSome = true ∧ (protectCell vd vd.strap2).isSome = true
          ∧ ∀ s p, (s, p) ∈ vd.protOf → s = vd.strap1 ∨ s = vd.strap2) := by
  cases v with
  | new =>
    simp [wfPairs, or_assoc] at h
    exact ⟨h.1.1.1, h.1.1.2, fun hv => absurd rfl hv, fun _ => ⟨h.2.1.2, h.2.2, h.2.1.1⟩⟩
  | old => simp_all [wfPairs]
  | mid => simp_all [wfPairs]

/-- R7(d). -/
theorem Machine.wfIdent_mem {v : Variant} {vd : Descriptor} (h : wfIdent v vd = true) :
    vd.id ∈ vd.roSet ∧ (v = .new → vd.aliasCell ∈ vd.roSet ∧ vd.aliasCell ≠ vd.id) := by
  cases v <;> simp_all [wfIdent]

/-- R7(e). -/
theorem Machine.wfLock_lt {v : Variant} {vd : Descriptor} (h : wfLock v vd = true) :
    vd.k < vd.lockHi ∧ vd.lockHi ≤ vd.n ∧ (v = .new → vd.lockHi = vd.n) := by
  simp only [wfLock, Bool.and_eq_true, decide_eq_true_eq] at h
  refine ⟨h.1.1, h.1.2, fun hv => ?_⟩
  simpa [hv] using h.2

/-- R7(f). -/
theorem Machine.wfStraps_ne {vd : Descriptor} (h : wfStraps vd = true) :
    vd.strap1 ≠ vd.strap2 ∧ vd.strap1 ≠ vd.k ∧ vd.strap1 ≠ vd.id ∧ vd.strap2 ≠ vd.k ∧ vd.strap2 ≠ vd.id := by
  simpa [wfStraps, and_assoc] using h

/-- R7(h) of one variant. -/
theorem Machine.wfSizes_length {vd : Descriptor} (h : wfSizes vd = true) :
    1 ≤ vd.n ∧ 4 * vd.n ≤ vd.window ∧ vd.defaults.length = vd.n := by
  simpa [wfSizes, and_assoc] using h

/-- A pairing found is a pairing listed. -/
theorem mem_of_lookup {l : List (Nat × Nat)} {a b : Nat} (h : l.lookup a = some b) : (a, b) ∈ l := by
  induction l with
  | nil => simp at h
  | cons q l ih =>
    by_cases hq : a = q.1
    · subst hq
      rw [List.lookup_cons, beq_self_eq_true] at h
      cases h
      exact List.mem_cons_self
    · rw [List.lookup_cons, beq_false_of_ne hq] at h
      exact List.mem_cons_of_mem _ (ih h)

/-- An index has a pairing exactly where the table lists it. -/
theorem lookup_isSome_iff (l : List (Nat × Nat)) (a : Nat) : (l.lookup a).isSome = true ↔ a ∈ l.map Prod.fst := by
  induction l with
  | nil => simp
  | cons q l ih =>
    by_cases hq : a = q.1
    · subst hq; simp
    · rw [List.lookup_cons, beq_false_of_ne hq]
      simp [hq, ih]

/-- A pairing listed is the one found, where no key is listed twice. -/
theorem lookup_of_mem {l : List (Nat × Nat)} {a b : Nat} (hn : (l.map Prod.fst).Nodup) (h : (a, b) ∈ l) :
    l.lookup a = some b := by
  induction l with
  | nil => simp at h
  | cons q l ih =>
    rw [List.map_cons, List.nodup_cons] at hn
    rcases List.mem_cons.1 h with rfl | h
    · simp
    · have : a ≠ q.1 := fun e => hn.1 (e ▸ List.mem_map.2 ⟨_, h, rfl⟩)
      rw [List.lookup_cons, beq_false_of_ne this]
      exact ih hn.2 h

end Sys2Proof
end

