-- ==== Sys2Proof/Laws/State.lean ====
section
/-! SUPPORT. The small lemmas of the state's updates, one a field and update, and of the RegisterFile. -/

namespace Sys2Proof.Machine

@[simp] theorem State.setOut_params (s : State) (o : Output) : (s.setOut o).params = s.params := rfl
@[simp] theorem State.setOut_dev (s : State) (o : Output) : (s.setOut o).dev = s.dev := rfl
@[simp] theorem State.setOut_pending (s : State) (o : Output) : (s.setOut o).pending = s.pending := rfl
@[simp] theorem State.setOut_rngIn (s : State) (o : Output) : (s.setOut o).rngIn = s.rngIn := rfl
@[simp] theorem State.setOut_free (s : State) (o : Output) : (s.setOut o).free = s.free := rfl
@[simp] theorem State.setOut_out (s : State) (o : Output) : (s.setOut o).out = o := rfl

@[simp] theorem State.setDev_params (s : State) (d : Option Device) : (s.setDev d).params = s.params := rfl
@[simp] theorem State.setDev_dev (s : State) (d : Option Device) : (s.setDev d).dev = d := rfl
@[simp] theorem State.setDev_pending (s : State) (d : Option Device) : (s.setDev d).pending = s.pending := rfl
@[simp] theorem State.setDev_rngIn (s : State) (d : Option Device) : (s.setDev d).rngIn = s.rngIn := rfl
@[simp] theorem State.setDev_free (s : State) (d : Option Device) : (s.setDev d).free = s.free := rfl
@[simp] theorem State.setDev_out (s : State) (d : Option Device) : (s.setDev d).out = s.out := rfl

@[simp] theorem State.setFile_params (s : State) (d : Device) (x : RegFile) : (s.setFile d x).params = s.params := rfl
@[simp] theorem State.setFile_dev (s : State) (d : Device) (x : RegFile) :
    (s.setFile d x).dev = some ⟨d.cfg, x⟩ := rfl
@[simp] theorem State.setFile_pending (s : State) (d : Device) (x : RegFile) :
    (s.setFile d x).pending = s.pending := rfl
@[simp] theorem State.setFile_rngIn (s : State) (d : Device) (x : RegFile) : (s.setFile d x).rngIn = s.rngIn := rfl
@[simp] theorem State.setFile_free (s : State) (d : Device) (x : RegFile) : (s.setFile d x).free = s.free := rfl
@[simp] theorem State.setFile_out (s : State) (d : Device) (x : RegFile) : (s.setFile d x).out = s.out := rfl

@[simp] theorem State.setPending_params (s : State) (q : List Request) : (s.setPending q).params = s.params := rfl
@[simp] theorem State.setPending_dev (s : State) (q : List Request) : (s.setPending q).dev = s.dev := rfl
@[simp] theorem State.setPending_pending (s : State) (q : List Request) : (s.setPending q).pending = q := rfl
@[simp] theorem State.setPending_rngIn (s : State) (q : List Request) : (s.setPending q).rngIn = s.rngIn := rfl
@[simp] theorem State.setPending_free (s : State) (q : List Request) : (s.setPending q).free = s.free := rfl
@[simp] theorem State.setPending_out (s : State) (q : List Request) : (s.setPending q).out = s.out := rfl

@[simp] theorem State.drawn_params (s : State) : s.drawn.params = s.params := by unfold State.drawn; split <;> rfl
@[simp] theorem State.drawn_dev (s : State) : s.drawn.dev = s.dev := by unfold State.drawn; split <;> rfl
@[simp] theorem State.drawn_pending (s : State) : s.drawn.pending = s.pending := by
  unfold State.drawn; split <;> rfl
@[simp] theorem State.drawn_out (s : State) : s.drawn.out = s.out := by unfold State.drawn; split <;> rfl
@[simp] theorem State.drawn_rngIn (s : State) : s.drawn.rngIn = s.rngIn.tail := by
  unfold State.drawn; split <;> simp [*]

@[simp] theorem State.setPending_vd (s : State) (q : List Request) (d : Device) :
    (s.setPending q).vd d = s.vd d := rfl
@[simp] theorem State.setPending_mode (s : State) (q : List Request) : (s.setPending q).mode = s.mode := rfl
@[simp] theorem State.setOut_vd (s : State) (o : Output) (d : Device) : (s.setOut o).vd d = s.vd d := rfl
@[simp] theorem State.setOut_mode (s : State) (o : Output) : (s.setOut o).mode = s.mode := rfl
@[simp] theorem State.setFile_vd (s : State) (d e : Device) (x : RegFile) : (s.setFile d x).vd e = s.vd e := rfl

/-- The mode of a state with an instance. -/
theorem State.mode_of_dev {s : State} {d : Device} (h : s.dev = some d) :
    s.mode = some (modeOf s.params d.cfg.variant) := by simp [State.mode, h]

/-! ### The RegisterFile -/

/-- A write keeps the number of cells (R10). -/
@[simp] theorem RegFile.put_length (x : RegFile) (i : Nat) (v : Word) : (RegFile.put x i v).length = x.length := by
  simp [RegFile.put]

/-- A cell reads as last written. -/
theorem RegFile.cell_put_self (x : RegFile) {i : Nat} (v : Word) (h : i < x.length) :
    RegFile.cell (RegFile.put x i v) i = v := by
  simp [RegFile.cell, RegFile.put, List.getD_eq_getElem?_getD, h]

/-- Every other cell reads as before. -/
@[simp] theorem RegFile.cell_put_ne (x : RegFile) {i j : Nat} (v : Word) (h : j ≠ i) :
    RegFile.cell (RegFile.put x i v) j = RegFile.cell x j := by
  simp [RegFile.cell, RegFile.put, List.getD_eq_getElem?_getD, Ne.symm h]

/-- Both cases at once, inside and outside the file. -/
theorem RegFile.cell_put (x : RegFile) (i j : Nat) (v : Word) :
    RegFile.cell (RegFile.put x i v) j = if j = i ∧ i < x.length then v else RegFile.cell x j := by
  by_cases hj : j = i
  · subst hj
    by_cases hl : j < x.length
    · simp [hl, RegFile.cell_put_self]
    · simp [hl, RegFile.cell, RegFile.put, List.getD_eq_getElem?_getD]
  · simp [hj]

/-- A write keeps the form of the file. -/
theorem RegFile.put_wf {n : Nat} {x : RegFile} (i : Nat) (v : Word) (h : RegFile.wf n x = true) :
    RegFile.wf n (RegFile.put x i v) = true := by
  simpa [RegFile.wf] using h

@[simp] theorem resetImage_length (vd : Descriptor) (cfg : DeviceConfig) :
    (resetImage vd cfg).length = vd.defaults.length := by
  unfold resetImage aliasOver; split <;> simp

/-- `RESET` loads a file of the variant's cell count. -/
theorem resetImage_wf {vd : Descriptor} (cfg : DeviceConfig) (h : wfSizes vd = true) :
    RegFile.wf vd.n (resetImage vd cfg) = true := by
  have : vd.defaults.length = vd.n := by simpa [wfSizes] using (by simpa [wfSizes] using h : _ ∧ _).2
  simp [RegFile.wf, this]

@[simp] theorem accumulateOr_length (x : RegFile) (i : Nat) (v : Word) : (accumulateOr x i v).length = x.length := by
  simp [accumulateOr]

@[simp] theorem clearBits_length (x : RegFile) (t : Nat) (v : Word) : (clearBits x t v).length = x.length := by
  simp [clearBits]

end Sys2Proof.Machine
end

