-- ==== Sys2Proof/Laws/Ops.lean ====
section
/-! SUPPORT. For each shared operation, once, everything it can do. -/

namespace Sys2Proof.Machine

@[simp] theorem next_eq_next {s t : State} :
    ((.next s : Result) = .next t) ↔ s = t := ⟨fun h => by cases h; rfl, fun h => h ▸ rfl⟩

/-- An operation on the instance `d` is what it does with `d`. -/
theorem withDevice_some {s : State} {d : Device} {f : Device → Result} (h : s.dev = some d) :
    withDevice s f = f d := by simp [withDevice, h]

/-- Without an instance it stops. -/
theorem withDevice_none {s : State} {f : Device → Result} (h : s.dev = none) :
    withDevice s f = .fault .noInstance := by simp [withDevice, h]

/-- An operation that answers a next state had an instance. -/
theorem withDevice_next {s t : State} {f : Device → Result} (h : withDevice s f = .next t) :
    ∃ d, s.dev = some d ∧ f d = .next t := by
  unfold withDevice at h
  split at h
  · cases h
  · exact ⟨_, ‹_›, h⟩

/-- The step of a state with something delivered. -/
theorem step_of_pending {s : State} {r : Request} {rest : List Request} (h : s.pending = r :: rest) :
    step s = match decode s.mode r with
      | .ok i => exec i (s.setPending rest)
      | .error e => rejectWord e := by
  have e : fetch s = some (r, s.setPending rest) := by simp only [fetch, h]
  unfold step
  rw [e]
  rfl

/-- A step either idles or performs one decoded operation. -/
theorem step_next {s t : State} (h : step s = .next t) :
    (s.pending = [] ∧ t = s)
      ∨ ∃ r rest i, s.pending = r :: rest ∧ decode s.mode r = .ok i ∧ exec i (s.setPending rest) = .next t := by
  cases hp : s.pending with
  | nil => left; simpa [step, fetch, hp, idle, eq_comm] using h
  | cons r rest =>
    right
    rw [step_of_pending hp] at h
    cases hd : decode s.mode r with
    | ok i => rw [hd] at h; exact ⟨r, rest, i, rfl, hd, h⟩
    | error e => rw [hd] at h; cases e; cases h

/-- `DIAG_LOCKED` as the gate computes it is the report of R74. -/
theorem lockViolation_eq (vd : Descriptor) (x : RegFile) (o : Word) :
    lockViolation vd x (indexOf o) = lockedReport vd x o := by
  rw [Bool.eq_iff_iff]
  simp [lockViolation, guarded, isLocked, lockedReport, and_assoc]

/-- A write the gate lets through takes its policy's effect and adds the gate's report. -/
theorem gatedWrite_open {s : State} {d : Device} {o : Word} {f : Descriptor → RegFile → Effect}
    (h : s.dev = some d) (hg : GateOpen (s.vd d) d.x o) :
    gatedWrite o s f = .next ((s.setFile d (f (s.vd d) d.x).x).setOut
      { diag := (gateDiag (s.vd d) d.x (indexOf o)).union (f (s.vd d) d.x).diag }) := by
  rw [gatedWrite, withDevice_some h, if_neg, replyFile]
  rw [lockViolation_eq, Bool.and_eq_true]
  rintro ⟨hv, hb⟩
  exact hg hb (by simpa [lockedReport] using hv)

/-- A write the gate blocks reports the violation and nothing else. -/
theorem gatedWrite_blocked {s : State} {d : Device} {o : Word} {f : Descriptor → RegFile → Effect}
    (h : s.dev = some d) (hv : lockedReport (s.vd d) d.x o = true) (hb : (s.vd d).lockBlocks = true) :
    gatedWrite o s f = .next (s.setOut { diag := { locked := true } }) := by
  rw [gatedWrite, withDevice_some h, if_pos (by simp [lockViolation_eq, hv, hb]), reply, gateDiag,
    lockViolation_eq, hv]

/-- Whatever the gate says, a write is answered `OK`: either nothing but the outputs changes, or the file becomes what
the policy makes of it. -/
theorem gatedWrite_cases {s : State} {d : Device} (o : Word) (f : Descriptor → RegFile → Effect)
    (h : s.dev = some d) :
    (lockedReport (s.vd d) d.x o = true ∧ (s.vd d).lockBlocks = true
        ∧ gatedWrite o s f = .next (s.setOut { diag := { locked := true } }))
      ∨ (GateOpen (s.vd d) d.x o ∧ gatedWrite o s f = .next ((s.setFile d (f (s.vd d) d.x).x).setOut
          { diag := ({ locked := lockedReport (s.vd d) d.x o } : Diag).union (f (s.vd d) d.x).diag })) := by
  by_cases hv : lockedReport (s.vd d) d.x o = true ∧ (s.vd d).lockBlocks = true
  · exact .inl ⟨hv.1, hv.2, gatedWrite_blocked h hv.1 hv.2⟩
  · have hg : GateOpen (s.vd d) d.x o := fun hb hc => hv ⟨by simp [lockedReport, hc], hb⟩
    exact .inr ⟨hg, by rw [gatedWrite_open h hg, gateDiag, lockViolation_eq]⟩

/-- A plain read's answer. -/
theorem plainRead_some {s : State} {d : Device} {w : BitVec 4} {o : Word} {g : Diag} (h : s.dev = some d) :
    plainRead w o s g
      = .next (s.setOut { rdata := some (readData w (RegFile.cell d.x (indexOf o))), diag := g }) := by
  rw [plainRead, withDevice_some h, reply]

/-- The index of an offset. -/
theorem indexOf_eq (o : Word) : indexOf o = o.toNat / 4 := by
  simp [indexOf, BitVec.toNat_ushiftRight, Nat.shiftRight_eq_div_pow]

/-- Bit `b` of a word as a number. -/
theorem bitOf_toNat (v : Word) (b : Nat) : (bitOf v b).toNat = v.toNat / 2 ^ b % 2 := by
  simp only [bitOf, BitVec.getLsbD, Nat.testBit_eq_decide_div_mod_eq]
  have := Nat.mod_lt (v.toNat / 2 ^ b) (by decide : 0 < 2)
  by_cases h : v.toNat / 2 ^ b % 2 = 1
  · simp [h]
  · simp [show v.toNat / 2 ^ b % 2 = 0 by omega]

/-- A field of a word as a number. -/
theorem fieldOf_eq (v : Word) (f : BitField) : fieldOf v f = v.toNat / 2 ^ f.lo % 2 ^ (f.hi + 1 - f.lo) := by
  simp [fieldOf, Nat.shiftRight_eq_div_pow]

/-- A frequency fits 32 bits (R95). -/
theorem pllA_lt (vd : Descriptor) (cfg : DeviceConfig) (h : Word) : pllA vd cfg h < 2 ^ 32 := by
  unfold pllA
  split
  · decide
  · split
    · exact Nat.mod_lt _ (by decide)
    · exact BitVec.isLt _

/-- A frequency fits 32 bits (R95). -/
theorem pllB_lt (vd : Descriptor) (cfg : DeviceConfig) (h : Word) : pllB vd cfg h < 2 ^ 32 := by
  unfold pllB
  split
  · decide
  · exact Nat.mod_lt _ (by decide)

/-- Both divisions only lower a frequency. -/
theorem busClock_le (vd : Descriptor) (cfg : DeviceConfig) (x : RegFile) (out : Nat) :
    busClock vd cfg x out ≤ out :=
  (Nat.div_le_self _ _).trans (Nat.div_le_self _ _)

end Sys2Proof.Machine
end

