-- ==== Sys2Proof/Laws/Exec.lean ====
section
/-! SUPPORT. What the in-range writes have in common: each is the lock gate with a policy, and what its policy can do;
and the decoding of a transaction word put together from its fields. -/

namespace Sys2Proof.Machine

/-- The policy an in-range write applies. -/
def policyWrite (p : Params) : Instr → Descriptor → RegFile → Effect
  | .wrPlain w o d => plainPolicy w o d
  | .wrRo _ _ _ => rejectPolicy
  | .wrKey w o d => keyPolicy p.unlockConst w o d
  | .wrW1s w o d => setPolicy w o d
  | .wrW1c w o d => clearPolicy w o d
  | .wrW1sp w o d => strapPolicy w o d
  | .wrRng _ _ _ => rejectPolicy
  | _ => fun _ x => { x := x }

/-- An in-range write is the lock gate over its policy. -/
theorem exec_write {i : Instr} {o : Word} (s : State) (h : i.writeOffset = some o) :
    exec i s = gatedWrite o s (policyWrite s.params i) := by
  cases i <;> cases h <;> rfl

/-- A policy adds or removes no cell. -/
@[simp] theorem policyWrite_length (p : Params) (i : Instr) (vd : Descriptor) (x : RegFile) :
    (policyWrite p i vd x).x.length = x.length := by
  cases i <;> simp only [policyWrite, plainPolicy, rejectPolicy, keyPolicy, setPolicy, RegFile.put_length,
    accumulateOr_length]
  case wrW1c => unfold clearPolicy; split <;> simp
  case wrW1sp =>
    unfold strapPolicy
    split
    · split <;> simp
    · rfl

/-- A policy reports nothing, or one of `DIAG_RO_WRITE` and `DIAG_WRITE_PROTECTED`. -/
theorem policyWrite_diag (p : Params) (i : Instr) (vd : Descriptor) (x : RegFile) :
    (policyWrite p i vd x).diag = {} ∨ (policyWrite p i vd x).diag = { roWrite := true }
      ∨ (policyWrite p i vd x).diag = { writeProtected := true } := by
  cases i <;> simp only [policyWrite, plainPolicy, rejectPolicy, keyPolicy, setPolicy, true_or, or_true]
  case wrW1c => unfold clearPolicy; split <;> simp
  case wrW1sp =>
    unfold strapPolicy
    split
    · split <;> simp
    · simp

/-- A policy changes at most the addressed cell, or for a paired clear its target; the rejecting policies change
none. -/
theorem policyWrite_cell {p : Params} {i : Instr} {o : Word} {vd : Descriptor} {x : RegFile} {j : Nat}
    (h : i.writeOffset = some o) (hj : RegFile.cell (policyWrite p i vd x).x j ≠ RegFile.cell x j) :
    i.keepsFile = false
      ∧ ((j = indexOf o ∧ ∀ w o' d, i ≠ .wrW1c w o' d)
        ∨ (∃ w d, i = .wrW1c w o d) ∧ clrTarget vd (indexOf o) = some j) := by
  have put_only : ∀ (k : Nat) (v : Word), RegFile.cell (RegFile.put x k v) j ≠ RegFile.cell x j → j = k := by
    intro k v hne
    by_contra hk
    exact hne (RegFile.cell_put_ne x v hk)
  cases i <;> simp only [Instr.writeOffset, Option.some.injEq, reduceCtorEq] at h <;> subst h <;>
    simp only [policyWrite] at hj
  case wrPlain => exact ⟨rfl, .inl ⟨put_only _ _ hj, by simp⟩⟩
  case wrKey => exact ⟨rfl, .inl ⟨put_only _ _ hj, by simp⟩⟩
  case wrW1s => exact ⟨rfl, .inl ⟨put_only _ _ hj, by simp⟩⟩
  case wrRo => exact absurd rfl hj
  case wrRng => exact absurd rfl hj
  case wrW1c =>
    unfold clearPolicy at hj
    split at hj
    · rename_i t ht
      exact ⟨rfl, .inr ⟨⟨_, _, rfl⟩, by rw [ht, put_only _ _ hj]⟩⟩
    · exact absurd rfl hj
  case wrW1sp =>
    unfold strapPolicy at hj
    split at hj
    · split at hj
      · exact absurd rfl hj
      · exact ⟨rfl, .inl ⟨put_only _ _ hj, by simp⟩⟩
    · exact absurd rfl hj

end Sys2Proof.Machine

namespace Sys2Proof

open Machine

/-- The row of a transaction word with given fields (R51). -/
theorem decodeTw_mkTw (m : Mode) (op w : BitVec 4) (o d : Word) : decodeTw m (mkTw op w o d) =
    if op = 0 then decodeRead m w o
    else if op = 1 then decodeWrite m w o d
    else if op = 2 then .reset
    else if op = 3 then decodeQuery m
    else if op < 8 then .rsvdOp47 (op.extractLsb' 0 2)
    else .rsvdOp8F (op.extractLsb' 0 3) := by
  have h1 := op.isLt
  have h2 := w.isLt
  have h3 := o.isLt
  have h4 := d.isLt
  have e2 : (mkTw op w o d).extractLsb' 68 2 = op.extractLsb' 0 2 := by
    apply BitVec.eq_of_toNat_eq
    rw [extract_toNat, extract_toNat, mkTw_toNat]
    omega
  have e3 : (mkTw op w o d).extractLsb' 68 3 = op.extractLsb' 0 3 := by
    apply BitVec.eq_of_toNat_eq
    rw [extract_toNat, extract_toNat, mkTw_toNat]
    omega
  rw [decodeTw, e2, e3, twOp_mkTw, twWidth_mkTw, twOffset_mkTw, twWdata_mkTw]

end Sys2Proof
end

