-- ==== Sys2Proof/Laws/PerInstr.lean ====
section
/-! SUPPORT. The statements made of each instruction as syntax: its canonical word has the bits that the row's `match`
and `mask` in spec/opcode_table.json ask for, and the CFG row its fields in place. -/

namespace Sys2Proof.Laws.TableRow

/-- A transaction word whose top bits, from bit `lo` up, are `m`: the row's mask and match read as a number. -/
def opBits (lo m : Nat) (r : Request) : Prop := ∃ w, r = .tw w ∧ w.toNat / 2 ^ lo = m

/-- The encoding column of the row of each instruction. -/
def Statement : Instr → Prop
  | .construct v rev s1 s2 key => ∃ w, encode (.construct v rev s1 s2 key) = .cfg w
      ∧ w.toNat = v.toNat * 2 ^ 128 + rev.toNat * 2 ^ 96 + s1.toNat * 2 ^ 64 + s2.toNat * 2 ^ 32 + key.toNat
  | .reset => opBits 68 0x2 (encode .reset)
  | .pclkqA => opBits 68 0x3 (encode .pclkqA)
  | .pclkqB => opBits 68 0x3 (encode .pclkqB)
  | .rdBuserr w o => opBits 68 0x0 (encode (.rdBuserr w o))
  | .wrBuserr w o d => opBits 68 0x1 (encode (.wrBuserr w o d))
  | .rdOor w o => opBits 68 0x0 (encode (.rdOor w o))
  | .wrOor w o d => opBits 68 0x1 (encode (.wrOor w o d))
  | .rdPlain w o => opBits 68 0x0 (encode (.rdPlain w o))
  | .rdRng w o => opBits 68 0x0 (encode (.rdRng w o))
  | .rdWowarn w o => opBits 68 0x0 (encode (.rdWowarn w o))
  | .wrPlain w o d => opBits 68 0x1 (encode (.wrPlain w o d))
  | .wrRo w o d => opBits 68 0x1 (encode (.wrRo w o d))
  | .wrKey w o d => opBits 68 0x1 (encode (.wrKey w o d))
  | .wrW1s w o d => opBits 68 0x1 (encode (.wrW1s w o d))
  | .wrW1c w o d => opBits 68 0x1 (encode (.wrW1c w o d))
  | .wrW1sp w o d => opBits 68 0x1 (encode (.wrW1sp w o d))
  | .wrRng w o d => opBits 68 0x1 (encode (.wrRng w o d))
  | .rsvdOp47 r => opBits 70 0x1 (encode (.rsvdOp47 r))
  | .rsvdOp8F r => opBits 71 0x1 (encode (.rsvdOp8F r))

theorem opBits_mkTw (op w : BitVec 4) (o d : Word) : opBits 68 op.toNat (.tw (mkTw op w o d)) := by
  refine ⟨_, rfl, ?_⟩
  have h2 := w.isLt; have h3 := o.isLt; have h4 := d.isLt
  rw [mkTw_toNat]
  omega

theorem construct (v : BitVec 2) (rev s1 s2 key : Word) : Statement (.construct v rev s1 s2 key) :=
  ⟨_, rfl, mkCfg_toNat v rev s1 s2 key⟩
theorem reset : Statement .reset := opBits_mkTw 2 0 0 0
theorem pclkqA : Statement .pclkqA := opBits_mkTw 3 0 0 0
theorem pclkqB : Statement .pclkqB := opBits_mkTw 3 0 0 0
theorem rdBuserr (w : BitVec 4) (o : Word) : Statement (.rdBuserr w o) := opBits_mkTw 0 w o 0
theorem wrBuserr (w : BitVec 4) (o d : Word) : Statement (.wrBuserr w o d) := opBits_mkTw 1 w o d
theorem rdOor (w : BitVec 4) (o : Word) : Statement (.rdOor w o) := opBits_mkTw 0 w o 0
theorem wrOor (w : BitVec 4) (o d : Word) : Statement (.wrOor w o d) := opBits_mkTw 1 w o d
theorem rdPlain (w : BitVec 4) (o : Word) : Statement (.rdPlain w o) := opBits_mkTw 0 w o 0
theorem rdRng (w : BitVec 4) (o : Word) : Statement (.rdRng w o) := opBits_mkTw 0 w o 0
theorem rdWowarn (w : BitVec 4) (o : Word) : Statement (.rdWowarn w o) := opBits_mkTw 0 w o 0
theorem wrPlain (w : BitVec 4) (o d : Word) : Statement (.wrPlain w o d) := opBits_mkTw 1 w o d
theorem wrRo (w : BitVec 4) (o d : Word) : Statement (.wrRo w o d) := opBits_mkTw 1 w o d
theorem wrKey (w : BitVec 4) (o d : Word) : Statement (.wrKey w o d) := opBits_mkTw 1 w o d
theorem wrW1s (w : BitVec 4) (o d : Word) : Statement (.wrW1s w o d) := opBits_mkTw 1 w o d
theorem wrW1c (w : BitVec 4) (o d : Word) : Statement (.wrW1c w o d) := opBits_mkTw 1 w o d
theorem wrW1sp (w : BitVec 4) (o d : Word) : Statement (.wrW1sp w o d) := opBits_mkTw 1 w o d
theorem wrRng (w : BitVec 4) (o d : Word) : Statement (.wrRng w o d) := opBits_mkTw 1 w o d
theorem rsvdOp47 (r : BitVec 2) : Statement (.rsvdOp47 r) := by
  refine ⟨_, rfl, ?_⟩
  have h := r.isLt
  have e : (1 : BitVec 2).toNat = 1 := rfl
  have z : (0 : BitVec 4).toNat = 0 := rfl
  have y : (0 : Word).toNat = 0 := rfl
  rw [mkTw_toNat, BitVec.toNat_append, ← Nat.shiftLeft_add_eq_or_of_lt h, Nat.shiftLeft_eq, e, z, y]
  omega
theorem rsvdOp8F (r : BitVec 3) : Statement (.rsvdOp8F r) := by
  refine ⟨_, rfl, ?_⟩
  have h := r.isLt
  have e : (1 : BitVec 1).toNat = 1 := rfl
  have z : (0 : BitVec 4).toNat = 0 := rfl
  have y : (0 : Word).toNat = 0 := rfl
  rw [mkTw_toNat, BitVec.toNat_append, ← Nat.shiftLeft_add_eq_or_of_lt h, Nat.shiftLeft_eq, e, z, y]
  omega

end Sys2Proof.Laws.TableRow
end

