-- ==== Sys2Proof/Tests/Slice0.lean ====
section
/-! SUPPORT. Tests: words written out from the encodings of 30_encoding.md, one refused term for each well-formedness
check, one-step vectors of 95_test_vectors.md (the number of each is in its name or comment), and for each obligation
with hypotheses a state and operands that meet them. -/

namespace Sys2Proof.Tests

open Sys2Proof.Machine

set_option Elab.async false

/-! ### The fixture `FIX` of 95_test_vectors.md section 0 -/

/-- `FIX` for `V_OLD`: REF with `DEFAULTS` all zero. -/
def fixOld : Descriptor := { refOld with defaults := List.replicate 106 0 }

/-- `FIX` for `V_MID`. -/
def fixMid : Descriptor := { refMid with defaults := List.replicate 106 0 }

/-- `FIX` for `V_NEW`. -/
def fixNew : Descriptor := { refNew with defaults := List.replicate 904 0 }

/-- `FIX`. -/
def fix : Params := { refParams with old := fixOld, mid := fixMid, new := fixNew }

/-- `FIX` with `LOCK_BLOCKS = true` on all variants (R75). -/
def fixBlocks : Params :=
  { fix with old := { fixOld with lockBlocks := true }, mid := { fixMid with lockBlocks := true },
             new := { fixNew with lockBlocks := true } }

/-- The revision 95_test_vectors.md section 2 constructs each variant with. -/
def revOf : Variant → Word
  | .old => 0x02010303
  | .mid => 0x04010303
  | .new => 0x05010303

/-- The instance of a fresh start with seed `key` and strap word 1 `s1`. -/
def dev (v : Variant) (s1 key : Word) : Device := construct fix ⟨v, revOf v, s1, 0, key⟩

/-- A state that holds the instance `d`. -/
def holding (d : Device) : State := { State.reset with params := fix, dev := some d }

/-- The fresh, unlocked start of section 2. -/
def fresh (v : Variant) : State := holding (dev v 0 0x1688A8A8)

/-- The locked start: the seed is 0. -/
def lockedStart (v : Variant) : State := holding (dev v 0 0)

/-- The instance with `x[i] = v`. -/
def Device.poke (d : Device) (i : Nat) (v : Word) : Device := { d with x := RegFile.put d.x i v }

/-- The state with `x[i] = v`. -/
def poke (s : State) (i : Nat) (v : Word) : State := { s with dev := s.dev.map fun d => Device.poke d i v }

/-- The state after one transaction word. -/
def ran (s : State) (w : BitVec 72) : Option State :=
  match step (s.setPending [.tw w]) with
  | .next t => some t
  | .fault _ => none
  | .refused _ => none

/-- The state after one configuration word. -/
def built (s : State) (w : BitVec 130) : Option State :=
  match step (s.setPending [.cfg w]) with
  | .next t => some t
  | .fault _ => none
  | .refused _ => none

/-- `x[i]` of a state that holds an instance. -/
def cellOf (s : State) (i : Nat) : Option Word := s.dev.map fun d => RegFile.cell d.x i

/-- The response and the diagnostics, in R110's order of bits. -/
def report (s : State) : Resp × BitVec 5 := (s.out.resp, s.out.diag.bits)

/-- What a vector says of an access: the report, and one cell after it. -/
def seen (s : State) (w : BitVec 72) (i : Nat) : Option ((Resp × BitVec 5) × Option Word) :=
  (ran s w).map fun t => (report t, cellOf t i)

/-- What a vector says of a read: the report and the read data. -/
def read (s : State) (w : BitVec 72) : Option ((Resp × BitVec 5) × Option Word) :=
  (ran s w).map fun t => (report t, t.out.rdata)

/-- The mode of a variant under `FIX`. -/
def mode (v : Variant) : Mode := modeOf fix v

/-! ### Decoding: words written as `op_width_offset_wdata` (R51), one at least for each row -/

theorem test_decode_lifecycle :
    decode none (.cfg (0b01#2 ++ 0b00000100_00000001_00000011_00000011#32 ++ 0b0#32 ++ 0b0#32
          ++ 0b00010110_10001000_10101000_10101000#32)) = .ok (.construct 1 0x04010303 0 0 0x1688A8A8)
      ∧ decode (some (mode .new)) (.tw 0x2_F_12345678_9ABCDEF0) = .ok .reset
      ∧ decode (some (mode .new)) (.tw 0x2_0_00000000_00000000) = .ok .reset := by decide +kernel

theorem test_decode_query :
    decode (some (mode .old)) (.tw 0x3_0_00000000_00000000) = .ok .pclkqA
      ∧ decode (some (mode .mid)) (.tw 0x3_0_00000000_00000000) = .ok .pclkqB
      ∧ decode (some (mode .new)) (.tw 0x3_7_00000001_00000001) = .ok .pclkqB := by decide +kernel

theorem test_decode_boundary :
    decode (some (mode .mid)) (.tw 0x0_4_0000000A_00000000) = .ok (.rdBuserr 4 0x00A)
      ∧ decode (some (mode .old)) (.tw 0x0_5_00000008_00000000) = .ok (.rdBuserr 5 0x008)
      ∧ decode (some (mode .mid)) (.tw 0x1_2_000001A8_00000001) = .ok (.wrBuserr 2 0x1A8 1)
      ∧ decode (some (mode .old)) (.tw 0x0_1_000001AB_00000000) = .ok (.rdOor 1 0x1AB)
      ∧ decode (some (mode .new)) (.tw 0x1_4_00000E20_000000AA) = .ok (.wrOor 4 0xE20 0xAA) := by decide +kernel

theorem test_decode_reads :
    decode (some (mode .old)) (.tw 0x0_3_0000000F_00000000) = .ok (.rdPlain 3 0x00F)
      ∧ decode (some (mode .new)) (.tw 0x0_4_00000540_FFFFFFFF) = .ok (.rdRng 4 0x540)
      ∧ decode (some (mode .old)) (.tw 0x0_4_000000C0_00000000) = .ok (.rdWowarn 4 0x0C0)
      ∧ decode (some (mode .mid)) (.tw 0x0_4_000000C0_00000000) = .ok (.rdPlain 4 0x0C0) := by decide +kernel

theorem test_decode_writes :
    decode (some (mode .old)) (.tw 0b0001_0010_00000000000000000000000000001110_00000000000000000001000100100010)
        = .ok (.wrPlain 2 0x00E 0x1122)
      ∧ decode (some (mode .old)) (.tw 0x1_4_000000C0_00000011) = .ok (.wrPlain 4 0x0C0 0x11)
      ∧ decode (some (mode .mid)) (.tw 0x1_4_0000007C_00000000) = .ok (.wrRo 4 0x07C 0)
      ∧ decode (some (mode .old)) (.tw 0x1_2_00000000_1688A8A8) = .ok (.wrKey 2 0x000 0x1688A8A8)
      ∧ decode (some (mode .new)) (.tw 0x1_4_00000540_12345678) = .ok (.wrRng 4 0x540 0x12345678) := by decide +kernel

theorem test_decode_writes_new :
    decode (some (mode .new)) (.tw 0x1_4_00000040_0000000F) = .ok (.wrW1s 4 0x040 0xF)
      ∧ decode (some (mode .new)) (.tw 0x1_4_00000504_00000001) = .ok (.wrW1c 4 0x504 1)
      ∧ decode (some (mode .new)) (.tw 0x1_4_00000510_80000000) = .ok (.wrW1sp 4 0x510 0x80000000)
      ∧ decode (some (mode .mid)) (.tw 0x1_4_00000040_0000000F) = .ok (.wrPlain 4 0x040 0xF) := by decide +kernel

theorem test_decode_reserved :
    decode (some (mode .new)) (.tw 0x4_0_00000000_00000000) = .ok (.rsvdOp47 0)
      ∧ decode (some (mode .new)) (.tw 0x7_F_FFFFFFFF_FFFFFFFF) = .ok (.rsvdOp47 3)
      ∧ decode (some (mode .new)) (.tw 0x8_0_00000000_00000000) = .ok (.rsvdOp8F 0)
      ∧ decode (some (mode .new)) (.tw 0xF_0_00000000_00000000) = .ok (.rsvdOp8F 7)
      ∧ decode none (.tw 0x2_0_00000000_00000000) = .error .noDevice := by decide +kernel

/-- The encoder lays the fields out as R51 and R53 do. -/
theorem test_encode :
    encode (.wrW1c 4 0x504 1) = .tw 0x1_4_00000504_00000001
      ∧ encode (.rdPlain 1 0x00D) = .tw 0x0_1_0000000D_00000000
      ∧ encode (.rsvdOp8F 7) = .tw 0xF_0_00000000_00000000
      ∧ encode (.construct 2 0x05000303 0xFFFFFFFF 0x12345678 0)
          = .cfg 0x2_05000303_FFFFFFFF_12345678_00000000 := by decide +kernel

/-- A row of the opcode table in the reset mode, and `step` running it as the first operation. -/
theorem test_table_word :
    decodeTableWord 72 0x140000050400000001 = some (.wrW1c 4 0x504 1)
      ∧ decodeTableWord 130 0x2_05000303_00000000_00000000_00000000 = some (.construct 2 0x05000303 0 0 0)
      ∧ decodeTableWord 4 0x2 = some (.rdBuserr 0 0) := by decide +kernel

theorem test_fetch_word :
    step (State.reset.withFetchWord 72 0x200000000000000000) = exec .reset State.reset := rfl

/-! ### Refused terms: one for each check of `Instr.wf` -/

theorem test_illformed_query : Instr.wf (mode .mid) .pclkqA = false ∧ Instr.wf (mode .old) .pclkqB = false := by
  decide +kernel

theorem test_illformed_boundary :
    Instr.wf (mode .old) (.rdBuserr 4 0x00A) = false ∧ Instr.wf (mode .mid) (.wrBuserr 4 0x008 0) = false
      ∧ Instr.wf (mode .old) (.rdOor 4 0x1A4) = false ∧ Instr.wf (mode .mid) (.wrOor 4 0x1AA 0) = false := by
  decide +kernel

theorem test_illformed_reads :
    Instr.wf (mode .old) (.rdPlain 4 0x078) = false ∧ Instr.wf (mode .new) (.rdRng 4 0x078) = false
      ∧ Instr.wf (mode .mid) (.rdWowarn 4 0x0C0) = false ∧ Instr.wf (mode .mid) (.rdPlain 4 0x1A8) = false := by
  decide +kernel

theorem test_illformed_writes :
    Instr.wf (mode .new) (.wrPlain 4 0x040 0) = false ∧ Instr.wf (mode .new) (.wrRo 4 0x008 0) = false
      ∧ Instr.wf (mode .new) (.wrKey 4 0x004 0) = false ∧ Instr.wf (mode .mid) (.wrW1s 4 0x040 0) = false
      ∧ Instr.wf (mode .mid) (.wrW1c 4 0x044 0) = false ∧ Instr.wf (mode .old) (.wrW1sp 4 0x070 0) = false
      ∧ Instr.wf (mode .new) (.wrRng 4 0x544 0) = false := by decide +kernel

/-! ### Refused records: one for each clause of R7, which REF and `FIX` satisfy -/

theorem test_ref_wf : refParams.wf = true ∧ fix.wf = true ∧ fixBlocks.wf = true := by decide +kernel

theorem test_illformed_index : wfIndexes .old { fixOld with rngCtrl := 106 } = false
    ∧ wfIndexes .new { fixNew with aliasCell := 904 } = false
    ∧ wfIndexes .new { fixNew with clrOf := [(17, 904)] } = false := by decide +kernel

theorem test_illformed_classes : wfClasses .old { fixOld with rngData := 31 } = false
    ∧ wfClasses .new { fixNew with clrOf := [(16, 16)] } = false := by decide +kernel

theorem test_illformed_pairs : wfPairs .new { fixNew with clrOf := [(17, 18)] } = false
    ∧ wfPairs .new { fixNew with protOf := [(320, 322)] } = false
    ∧ wfPairs .new { fixNew with clrOf := [(17, 16), (17, 20)] } = false
    ∧ wfPairs .mid { fixMid with w1sSet := [16] } = false := by decide +kernel

theorem test_illformed_ident : wfIdent .old { fixOld with id := 30 } = false
    ∧ wfIdent .new { fixNew with aliasCell := 5 } = false := by decide +kernel

theorem test_illformed_lock : wfLock .old { fixOld with lockHi := 0 } = false
    ∧ wfLock .old { fixOld with lockHi := 107 } = false
    ∧ wfLock .new { fixNew with lockHi := 903 } = false := by decide +kernel

theorem test_illformed_straps : wfStraps { fixOld with strap2 := 28 } = false
    ∧ wfStraps { fixOld with strap1 := 31 } = false := by decide +kernel

theorem test_illformed_fields : wfFields .old { fixOld with aOdBit := 3 } = false
    ∧ wfFields .old { fixOld with aFsel := ⟨10, 8⟩ } = false
    ∧ wfFields .old { fixOld with aTable := [] } = false
    ∧ wfFields .mid { fixMid with bP := ⟨32, 13⟩ } = false
    ∧ wfFields .mid { fixMid with clkin48mBit := 23 } = false := by decide +kernel

/-- `HPLL = CLKSEL`: R7(g) then sets `PCLK_DIV` beside the PLL fields, and refuses an overlap only. -/
theorem test_illformed_shared_register :
    wfFields .old { fixOld with clksel := 9, pclkDiv := ⟨3, 0⟩ } = false
      ∧ wfFields .mid { fixMid with clksel := 9, pclkDiv := ⟨18, 16⟩ } = false
      ∧ wfFields .new { fixNew with clksel := 128, pclkDiv := ⟨20, 20⟩ } = false
      ∧ wfFields .old { fixOld with clksel := 9 } = true
      ∧ wfFields .old { fixOld with pclkDiv := ⟨3, 0⟩ } = true := by decide +kernel

theorem test_illformed_sizes : wfSizes { fixOld with window := 0x1A4 } = false
    ∧ wfSizes { fixOld with defaults := [] } = false ∧ wfSizes { fixOld with n := 0 } = false
    ∧ wfWarn .mid { fixMid with woWarnSet := [48] } = false := by decide +kernel

theorem test_illformed_params :
    Params.wf { fix with mid := { fixMid with n := 105, defaults := List.replicate 105 0 } } = false
    ∧ Params.wf { fix with new := fixOld } = false := by decide +kernel

/-! ### One step: construction and reset -/

/-- VX5. -/
theorem test_vx5 :
    (built (fresh .mid) 0x2_05000303_FFFFFFFF_12345678_00000000).map (fun t => (report t,
        [0, 1, 5, 320, 324].map (cellOf t)))
      = some ((.ok, 0), [some 0, some 0x05010303, some 0x05000303, some 0xFFFFFFFF, some 0x12345678]) := by
  decide +kernel

/-- VX2 and VX4: `CfgError`, no instance. -/
theorem test_vx2_vx4 :
    (built (fresh .mid) 0x1_04020303_00000000_00000000_1688A8A8).map (fun t => (t.out.resp, t.dev))
        = some (.cfgError, none)
      ∧ (built (fresh .mid) 0x3_04010303_00000000_00000000_1688A8A8).map (fun t => (t.out.resp, t.dev))
        = some (.cfgError, none) := by decide +kernel

/-- VX6: the reset of a changed file is the fresh file. -/
theorem test_vx6 :
    (ran (poke (poke (poke (fresh .mid) 2 0xF3F40000) 28 0xFF) 0 0) 0x2_0_00000000_00000000).map State.dev
      = some (some (dev .mid 0 0x1688A8A8)) := by decide +kernel

/-- VX9: `RESET` zeroes the random-data cell and takes no draw. -/
theorem test_vx9 :
    (ran { poke (fresh .old) 30 0xDEADBEEF with rngIn := [7] } 0x2_0_00000000_00000000).map
        (fun t => (cellOf t 30, t.rngIn)) = some (some 0, [7]) := by decide +kernel

/-! ### One step: the frequency query -/

/-- VA1 and VA10, Algorithm A programmed. -/
theorem test_va1_va10 :
    (ran (poke (poke (fresh .old) 9 0x00040291) 2 0xF3F40000) 0x3_0_00000000_00000000).map
        (fun t => t.out.pclkHz) = some (some 16500000)
      ∧ (ran (poke (fresh .old) 9 0x00040021) 0x3_0_00000000_00000000).map
        (fun t => t.out.pclkHz) = some (some 24000000) := by decide +kernel

/-- VA6, the table, and VA8, the wrap at 32 bits. -/
theorem test_va6_va8 :
    (ran (poke (poke (holding (dev .old 0x00800300 1)) 9 0x00000291) 2 0x00800000) 0x3_0_00000000_00000000).map
        (fun t => t.out.pclkHz) = some (some 106250000)
      ∧ (ran (poke (holding (dev .old 0x00040000 1)) 9 0x000407E0) 0x3_0_00000000_00000000).map
        (fun t => t.out.pclkHz) = some (some 972516352) := by decide +kernel

/-- VB5, the wrap, and VB7. -/
theorem test_vb5_vb7 :
    (ran (poke (holding (dev .mid 0x00040000 1)) 9 0x00001FE0) 0x3_0_00000000_00000000).map
        (fun t => t.out.pclkHz) = some (some 924516352)
      ∧ (ran (poke (poke (holding (dev .mid 0x00800000 1)) 9 0x00002BE1) 2 0x01800000) 0x3_0_00000000_00000000).map
        (fun t => t.out.pclkHz) = some (some 37500000) := by decide +kernel

/-- VB1 on `V_NEW`, and VB8. -/
theorem test_vb1_vb8 :
    (ran (poke (poke (fresh .new) 128 0x93000400) 192 0xF3F40000) 0x3_0_00000000_00000000).map
        (fun t => (report t, t.out.pclkHz, t.out.rdata)) = some ((.ok, 0), some 24750000, none)
      ∧ (ran (poke (fresh .mid) 9 0x00180000) 0x3_0_00000000_00000000).map
        (fun t => t.out.pclkHz) = some (some 0) := by decide +kernel

/-! ### One step: the boundary, the out-of-range space, the reserved codes -/

/-- VD2 and VR11: no draw taken. -/
theorem test_vd2_vr11 :
    (ran (fresh .mid) 0x0_4_0000000A_00000000).map report = some (.err, 0)
      ∧ (ran { fresh .mid with rngIn := [7] } 0x0_2_00000078_00000000).map
        (fun t => (report t, t.rngIn, t.dev)) = some ((.err, 0), [7], some (dev .mid 0 0x1688A8A8)) := by decide +kernel

/-- VD3: the boundary comes before the out-of-range test. -/
theorem test_vd3 :
    (ran (fresh .mid) 0x1_2_000001A8_00000001).map (fun t => (report t, t.dev))
      = some ((.err, 0), some (dev .mid 0 0x1688A8A8)) := by decide +kernel

/-- VD5 and VD10. -/
theorem test_vd5_vd10 :
    read (fresh .mid) 0x0_4_FFFFFFFC_00000000 = some ((.ok, 0b00001), some 0)
      ∧ read (fresh .old) 0x0_1_000001AB_00000000 = some ((.ok, 0b00001), some 0) := by decide +kernel

/-- VD14: dropped, and no `DIAG_LOCKED`. -/
theorem test_vd14 :
    (ran (lockedStart .new) 0x1_4_00000E20_000000AA).map (fun t => (report t, t.dev))
      = some ((.ok, 0b00001), some (dev .new 0 0)) := by decide +kernel

/-- VD17, and the last reserved code. -/
theorem test_vd17 :
    (ran (fresh .old) 0x4_0_00000000_00000000).map (fun t => (report t, t.dev))
        = some ((.err, 0), some (dev .old 0 0x1688A8A8))
      ∧ (ran (fresh .old) 0xF_0_00000000_00000000).map (fun t => (report t, t.dev))
        = some ((.err, 0), some (dev .old 0 0x1688A8A8)) := by decide +kernel

/-! ### One step: reads -/

/-- VR1 and VR3: the raw seed; the low byte of the cell, whatever the byte position. -/
theorem test_vr1_vr3 :
    read (fresh .new) 0x0_4_00000000_00000000 = some ((.ok, 0), some 0x1688A8A8)
      ∧ read (poke (fresh .old) 3 0xAABBCCDD) 0x0_1_0000000D_00000000 = some ((.ok, 0), some 0xDD) := by decide +kernel

/-- VR10: a clear cell reads as its own word. -/
theorem test_vr10 :
    read (poke (fresh .new) 16 0xC3) 0x0_4_00000044_00000000 = some ((.ok, 0), some 0) := by decide +kernel

/-- VR6, its narrow read: the whole new word is stored, its low byte returned. -/
theorem test_vr6 :
    (ran { poke (fresh .old) 30 0xDEADBEEF with rngIn := [0x00C0FFEE] } 0x0_1_00000078_00000000).map
        (fun t => (report t, t.out.rdata, cellOf t 30, t.rngIn))
      = some ((.ok, 0), some 0xEE, some 0x00C0FFEE, []) := by decide +kernel

/-- U1: with no injected word the draw is the free value, whatever it is. -/
theorem test_free_draw :
    ∃ t, step ((fresh .mid).setPending [.tw 0x0_4_00000078_00000000]) = .next t
      ∧ cellOf t 30 = some (Config.freeDraw 0) ∧ t.free = 1 :=
  ⟨_, rfl, rfl, rfl⟩

/-- VR8 and VR9: flagged on `V_OLD` only. -/
theorem test_vr8_vr9 :
    read (poke (fresh .old) 48 0x11) 0x0_4_000000C0_00000000 = some ((.ok, 0b01000), some 0x11)
      ∧ read (poke (fresh .mid) 48 0x11) 0x0_4_000000C0_00000000 = some ((.ok, 0), some 0x11) := by decide +kernel

/-! ### One step: writes -/

/-- VW2 and VW4: the whole cell is replaced by the zero-extended value. -/
theorem test_vw2_vw4 :
    seen (poke (fresh .old) 3 0xAABBCCDD) 0x1_2_0000000E_00001122 3 = some ((.ok, 0), some 0x00001122)
      ∧ seen (fresh .old) 0x1_3_00000009_FF123456 2 = some ((.ok, 0), some 0x00123456) := by decide +kernel

/-- VG1, and with `LOCK_BLOCKS`; VG3, outside the guarded range. -/
theorem test_vg1_vg3 :
    seen (lockedStart .mid) 0x1_4_00000008_00000005 2 = some ((.ok, 0b00100), some 5)
      ∧ seen { lockedStart .mid with params := fixBlocks } 0x1_4_00000008_00000005 2 = some ((.ok, 0b00100), some 0)
      ∧ seen { lockedStart .mid with params := fixBlocks } 0x1_4_00000104_00000001 65 = some ((.ok, 0), some 1) := by
  decide +kernel

/-- VG6, and with `LOCK_BLOCKS`. -/
theorem test_vg6 :
    seen (lockedStart .mid) 0x1_4_0000007C_00000000 31 = some ((.ok, 0b00110), some 0x04010303)
      ∧ seen { lockedStart .mid with params := fixBlocks } 0x1_4_0000007C_00000000 31
        = some ((.ok, 0b00100), some 0x04010303) := by decide +kernel

/-- VW9, VW10, VW12. -/
theorem test_vw9_vw10_vw12 :
    seen (lockedStart .old) 0x1_4_00000000_1688A8A8 0 = some ((.ok, 0), some 1)
      ∧ seen (fresh .old) 0x1_4_00000000_1688A8A9 0 = some ((.ok, 0), some 0)
      ∧ seen (fresh .old) 0x1_2_00000000_1688A8A8 0 = some ((.ok, 0), some 0) := by decide +kernel

/-- VW11: writing the value the cell shows when unlocked locks. -/
theorem test_vw11 :
    seen (poke (fresh .new) 0 1) 0x1_4_00000000_00000001 0 = some ((.ok, 0), some 0) := by decide +kernel

/-- VW13. -/
theorem test_vw13 :
    seen (poke (fresh .new) 16 0xF0) 0x1_4_00000040_0000000F 16 = some ((.ok, 0), some 0xFF) := by decide +kernel

/-- VW15: the target loses the bits, the clear cell stays. -/
theorem test_vw15 :
    seen (poke (fresh .new) 16 0xFF) 0x1_4_00000044_0000003C 16 = some ((.ok, 0), some 0xC3)
      ∧ seen (poke (fresh .new) 16 0xFF) 0x1_4_00000044_0000003C 17 = some ((.ok, 0), some 0) := by decide +kernel

/-- VW19: the clear of a frozen strap. -/
theorem test_vw19 :
    seen (poke (poke (fresh .new) 320 0x3C0) 322 1) 0x1_4_00000504_00000040 320 = some ((.ok, 0), some 0x380) := by
  decide +kernel

/-- VW17 and VW18. -/
theorem test_vw17_vw18 :
    seen (poke (fresh .new) 320 0xC0) 0x1_4_00000500_00000300 320 = some ((.ok, 0), some 0x3C0)
      ∧ seen (poke (poke (fresh .new) 320 0x3C0) 322 1) 0x1_4_00000500_00000400 320
        = some ((.ok, 0b10000), some 0x3C0) := by decide +kernel

/-- VW20: a strap has its own protect cell; VG8, its second write. -/
theorem test_vw20_vg8 :
    seen (poke (fresh .new) 322 1) 0x1_4_00000510_80000000 324 = some ((.ok, 0), some 0x80000000)
      ∧ seen (poke (lockedStart .new) 326 0x100) 0x1_4_00000510_00000001 324 = some ((.ok, 0b10100), some 0) := by
  decide +kernel

/-- VG7 and VW22: no draw taken. -/
theorem test_vg7_vw22 :
    seen (lockedStart .new) 0x1_4_00000540_00000005 336 = some ((.ok, 0b00110), some 0)
      ∧ (ran { fresh .new with rngIn := [7] } 0x1_4_00000540_12345678).map (fun t => (report t, t.rngIn))
        = some ((.ok, 0b00010), [7]) := by decide +kernel

/-- Without an instance a transaction word faults (R116). -/
theorem test_no_instance :
    step ({ fresh .mid with dev := none }.setPending [.tw 0x0_4_00000000_00000000]) = .fault .noInstance := rfl

/-- The agents' words (R64, R36): `UNLOCK`, `CLRBITS 16, 0x3C` and `FREEZE 320` of program P2; little-endian bytes. -/
theorem test_agents :
    unlockWord fix .mid = .tw 0x1_4_00000000_1688A8A8 ∧ lockWord fix .new = .tw 0x1_4_00000000_00000000
      ∧ setBitsWord 16 0xF0 = .tw 0x1_4_00000040_000000F0
      ∧ clrBitsWord fixNew 16 0x3C = some (.tw 0x1_4_00000044_0000003C)
      ∧ freezeWord fixNew 320 = some (.tw 0x1_4_00000508_00000001)
      ∧ memWriteWord 0x1E6E2000 0x1E6E2008 [0x05, 0x00, 0xF4, 0xF3] = some (.tw 0x1_4_00000008_F3F40005)
      ∧ memWriteWord 0x1E6E2000 0x1E6E2008 (List.replicate 20 0xFF) = none
      ∧ memReadWord 0x1E6E2000 0x1E6E2078 4 = .tw 0x0_4_00000078_00000000 := by decide +kernel

/-! ### Witnesses: for each obligation with hypotheses, values that meet all of them, clause by clause -/

/-- The invariant of a run holds of fresh and of locked starts on every variant. -/
theorem test_fresh_inv (v : Variant) (key : Word) (h : key ∈ [0x1688A8A8, 0]) : (holding (dev v 0 key)).Inv := by
  refine ⟨(by decide +kernel : fix.wf = true), fun d hd => ?_⟩
  cases hd
  simp only [List.mem_cons, List.not_mem_nil, or_false] at h
  rcases h with rfl | rfl <;> cases v <;> unfold Device.Inv <;> decide +kernel

theorem witness_DecodeOfEncodeIsTheOperation :
    (Instr.wrW1c 4 0x504 1).WellFormed (mode .new) ∧ (Instr.wrOor 4 0x504 1).WellFormed (mode .old)
      ∧ (Instr.rsvdOp8F 7).WellFormed (mode .mid) := by decide +kernel

theorem witness_EveryWordIsExactlyOneRow :
    (Instr.pclkqA).WellFormed (mode .old) ∧ encode .pclkqA = encode .pclkqA := by decide +kernel

/-- Each range of `op`, at its ends. -/
theorem witness_TransactionWordFields :
    (0x0_F_FFFFFFFF_FFFFFFFF#72).toNat / 2 ^ 68 = 0 ∧ (0x1_0_00000000_00000000#72).toNat / 2 ^ 68 = 1
      ∧ (0x2_0_00000000_00000000#72).toNat / 2 ^ 68 = 2 ∧ (0x3_F_FFFFFFFF_FFFFFFFF#72).toNat / 2 ^ 68 = 3
      ∧ (0x4_0_00000000_00000000#72).toNat / 2 ^ 68 = 4 ∧ (0x7_F_FFFFFFFF_FFFFFFFF#72).toNat / 2 ^ 68 = 7
      ∧ (0x8_0_00000000_00000000#72).toNat / 2 ^ 68 = 8 ∧ (0xF_F_FFFFFFFF_FFFFFFFF#72).toNat / 2 ^ 68 = 15 := by
  decide +kernel

theorem witness_ReservedEncodingsAreRefused :
    ((fresh .mid).setPending [.tw 0x4_0_00000000_00000000]).dev = some (dev .mid 0 0x1688A8A8)
      ∧ ((fresh .mid).setPending [.tw 0x4_0_00000000_00000000]).pending = .tw 0x4_0_00000000_00000000 :: []
      ∧ 4 ≤ (0x4_0_00000000_00000000#72).toNat / 2 ^ 68
      ∧ ((fresh .mid).setPending [.cfg (3 * 2 ^ 128)]).pending = .cfg (3 * 2 ^ 128) :: []
      ∧ (3 * 2 ^ 128 : BitVec 130).toNat / 2 ^ 128 = 3 := ⟨rfl, rfl, by decide, rfl, by decide +kernel⟩

/-- A well-formed record, with a cell of every class on `V_NEW` and the write-only cell of `V_OLD`. -/
theorem witness_PolicyIsTheClassThatNamesTheCell :
    fix.wf = true ∧ [0, 1, 336, 320, 324, 16, 17, 903].map (policy (mode .new))
        = [.key, .ro, .rng, .w1sp, .w1sp, .w1s, .w1c, .plain]
      ∧ policy (mode .old) 48 = .wowarn ∧ policy (mode .mid) 48 = .plain ∧ policy (mode .mid) 28 = .plain := by
  decide +kernel

theorem witness_StepRunsTheDecodedOperation :
    ((fresh .mid).setPending [.tw 0x2_0_00000000_00000000]).pending = .tw 0x2_0_00000000_00000000 :: []
      ∧ decode ((fresh .mid).setPending [.tw 0x2_0_00000000_00000000]).mode (.tw 0x2_0_00000000_00000000) = .ok .reset
      ∧ (fresh .mid).pending = [] := ⟨rfl, by decide +kernel, rfl⟩

theorem witness_EveryAccessIsAnswered :
    ((fresh .mid).setPending [.tw 0x1_4_00000008_00000005]).Inv
      ∧ ((fresh .mid).setPending [.tw 0x1_4_00000008_00000005]).dev = some (dev .mid 0 0x1688A8A8)
      ∧ ((fresh .mid).setPending [.tw 0x1_4_00000008_00000005]).pending = .tw 0x1_4_00000008_00000005 :: [] :=
  ⟨test_fresh_inv .mid _ (by decide), rfl, rfl⟩

theorem witness_NoOperationWithoutAnInstance :
    ({ fresh .mid with dev := none } : State).dev = none
      ∧ (∀ c rev s1 s2 key, Instr.reset ≠ .construct c rev s1 s2 key)
      ∧ ({ fresh .mid with dev := none, pending := [.tw 0x2_0_00000000_00000000] } : State).pending
          = .tw 0x2_0_00000000_00000000 :: [] := ⟨rfl, by simp, rfl⟩

theorem witness_EveryStepKeepsTheInvariant :
    ((fresh .mid).setPending [.tw 0x2_0_00000000_00000000]).Inv
      ∧ ∃ t, step ((fresh .mid).setPending [.tw 0x2_0_00000000_00000000]) = .next t :=
  ⟨test_fresh_inv .mid _ (by decide), _, rfl⟩

theorem witness_CellsChangeOnlyByTheseOperations :
    ((fresh .mid).setPending [.tw 0x1_4_00000008_00000005]).dev = some (dev .mid 0 0x1688A8A8) ∧
    ((fresh .mid).setPending [.tw 0x1_4_00000008_00000005]).Inv
      ∧ ∃ t d', step ((fresh .mid).setPending [.tw 0x1_4_00000008_00000005]) = .next t ∧ t.dev = some d'
        ∧ RegFile.cell d'.x 2 ≠ RegFile.cell (dev .mid 0 0x1688A8A8).x 2 :=
  ⟨rfl, test_fresh_inv .mid _ (by decide), _, _, rfl, rfl, by decide +kernel⟩

theorem witness_ConfigurationIsImmutable :
    ((fresh .mid).setPending [.tw 0x2_0_00000000_00000000]).pending = .tw 0x2_0_00000000_00000000 :: []
      ∧ ∃ t, step ((fresh .mid).setPending [.tw 0x2_0_00000000_00000000]) = .next t := ⟨rfl, _, rfl⟩

theorem witness_BoundaryRejectsUnadmittedAccesses :
    (fresh .old).dev = some (dev .old 0 0x1688A8A8) ∧ [0, 1, 4, 5].map (fun w => admitted .old w 3)
        = [false, true, true, false]
      ∧ [(4, 0), (4, 1), (3, 0), (5, 0)].map (fun p => admitted .mid p.1 p.2) = [true, false, false, false] :=
  ⟨rfl, by decide, by decide⟩

theorem witness_ReservedRowsAnswerErr : (fresh .new).dev = some (dev .new 0 0x1688A8A8) := rfl

/-- The last cell and the first offset beyond it. -/
theorem witness_OffsetResolvesToIndex :
    admitted .old 4 0x1A7 = true ∧ decodeRead (mode .old) 4 0x1A7 = .rdPlain 4 0x1A7
      ∧ decodeRead (mode .old) 4 0x1A8 = .rdOor 4 0x1A8
      ∧ decodeWrite (mode .old) 4 0x1A8 0 = .wrOor 4 0x1A8 0 := by decide +kernel

theorem witness_OutOfRangeReadReturnsZero :
    (fresh .old).dev = some (dev .old 0 0x1688A8A8) ∧ admitted .old 1 0x1A8 = true
      ∧ fixOld.n ≤ (0x1A8 : Word).toNat / 4 := ⟨rfl, by decide, by decide +kernel⟩

theorem witness_OutOfRangeWriteIsDropped :
    (fresh .new).dev = some (dev .new 0 0x1688A8A8) ∧ admitted .new 4 0xE20 = true
      ∧ fixNew.n ≤ (0xE20 : Word).toNat / 4 := ⟨rfl, by decide, by decide +kernel⟩

theorem witness_LowOffsetBitsSelectNothing : (0x00C : Word).toNat / 4 = (0x00F : Word).toNat / 4 := by decide

/-- A locked write in the guarded range with `LOCK_BLOCKS`, where the write is dropped. -/
theorem witness_LockGateOnEveryWrite :
    ({ lockedStart .mid with params := fixBlocks } : State).dev = some (dev .mid 0 0)
      ∧ (Instr.wrPlain 4 0x008 5).writeOffset = some 0x008
      ∧ lockedReport fixBlocks.mid (dev .mid 0 0).x 0x008 = true ∧ fixBlocks.mid.lockBlocks = true
      ∧ lockedReport fixBlocks.mid (dev .mid 0 0).x 0x100 = true
      ∧ lockedReport fixBlocks.mid (dev .mid 0 0).x 0x104 = false
      ∧ lockedReport fixBlocks.mid (dev .mid 0 0).x 0x000 = false :=
  ⟨rfl, rfl, by decide +kernel, rfl, by decide +kernel, by decide +kernel, by decide +kernel⟩

theorem witness_LockModeTransitions :
    (fresh .mid).dev = some (dev .mid 0 0x1688A8A8) ∧
    (fresh .mid).Inv ∧ (Instr.wrKey 4 0x000 0).WellFormed (mode .mid)
      ∧ ∃ t d', exec (.wrKey 4 0x000 0) (fresh .mid) = .next t ∧ t.dev = some d'
        ∧ isLocked fixMid d'.x ≠ isLocked fixMid (dev .mid 0 0x1688A8A8).x :=
  ⟨rfl, test_fresh_inv .mid _ (by decide), by decide +kernel, _, _, rfl, rfl, by decide +kernel⟩

/-- An unlocked and the locked start, which differ in the key cell alone. -/
theorem witness_LockStateChangesNoEffect :
    (holding (Device.poke (dev .mid 0 0) 0 1)).dev = some (Device.poke (dev .mid 0 0) 0 1) ∧
    (lockedStart .mid).dev = some (dev .mid 0 0)
      ∧ (holding (Device.poke (dev .mid 0 0) 0 1)).Inv ∧ (lockedStart .mid).Inv
      ∧ (∀ j, j ≠ fixMid.k → RegFile.cell (dev .mid 0 0).x j = RegFile.cell (Device.poke (dev .mid 0 0) 0 1).x j)
      ∧ fixMid.lockBlocks = false ∧ protectApart fixMid
      ∧ (Instr.wrPlain 4 0x008 5).WellFormed (mode .mid) ∧ (Instr.wrPlain 4 0x008 5).writeOffset = some 0x008
      ∧ indexOf 0x008 ≠ fixMid.k := by
  refine ⟨rfl, rfl, ⟨(by decide +kernel : fix.wf = true), fun d hd => ?_⟩, test_fresh_inv .mid _ (by decide),
    fun j hj => ?_, rfl, ?_, by decide +kernel, rfl, by decide +kernel⟩
  · cases hd
    unfold Device.Inv
    decide +kernel
  · cases j with
    | zero => exact absurd rfl hj
    | succ j => rfl
  · intro s p h
    cases h

/-- `protectApart` also where there are protect cells. -/
theorem witness_protectApart : protectApart fixNew := by
  intro s p h
  have hm := List.mem_map_of_mem (f := Prod.snd) (mem_of_lookup h)
  have hk : ∀ q ∈ fixNew.protOf.map Prod.snd, q ≠ fixNew.k := by decide +kernel
  exact hk p hm

theorem witness_PlainWriteReplacesTheCell :
    (lockedStart .old).dev = some (dev .old 0 0) ∧
    inRange (mode .old) 2 0x00E = true ∧ policy (mode .old) (indexOf 0x00E) = .plain
      ∧ inRange (mode .old) 4 0x0C0 = true ∧ policy (mode .old) (indexOf 0x0C0) = .wowarn
      ∧ GateOpen fixOld (dev .old 0 0).x 0x00E ∧ GateOpen fixBlocks.old (dev .old 0 1).x 0x00E := by
  refine ⟨rfl, by decide +kernel, by decide +kernel, by decide +kernel, by decide +kernel, ?_, ?_⟩ <;>
    unfold GateOpen <;> decide +kernel

theorem witness_ReadOnlyWriteIsRejected :
    (lockedStart .mid).dev = some (dev .mid 0 0) ∧
    inRange (mode .mid) 4 0x07C = true ∧ policy (mode .mid) (indexOf 0x07C) = .ro
      ∧ GateOpen fixMid (dev .mid 0 0).x 0x07C := by
  refine ⟨rfl, by decide +kernel, by decide +kernel, ?_⟩
  unfold GateOpen
  decide +kernel

theorem witness_KeyWriteSetsTheLockFlag :
    (lockedStart .old).dev = some (dev .old 0 0) ∧ indexOf 0x003 = fixOld.k
      ∧ inRange (mode .old) 2 0x003 = true := ⟨rfl, by decide +kernel, by decide +kernel⟩

theorem witness_AccumulateOrSetsBits :
    (lockedStart .new).dev = some (dev .new 0 0) ∧
    inRange (mode .new) 4 0x040 = true ∧ policy (mode .new) (indexOf 0x040) = .w1s
      ∧ GateOpen fixNew (dev .new 0 0).x 0x040 := by
  refine ⟨rfl, by decide +kernel, by decide +kernel, ?_⟩
  unfold GateOpen
  decide +kernel

theorem witness_PairedClearClearsTheTarget :
    (lockedStart .new).dev = some (dev .new 0 0) ∧
    clrTarget fixNew (indexOf 0x504) = some 320 ∧ inRange (mode .new) 4 0x504 = true
      ∧ policy (mode .new) (indexOf 0x504) = .w1c ∧ GateOpen fixNew (dev .new 0 0).x 0x504 := by
  refine ⟨rfl, by decide +kernel, by decide +kernel, by decide +kernel, ?_⟩
  unfold GateOpen
  decide +kernel

/-- A strap with its protect cell zero, and with it non-zero. -/
theorem witness_StrapWriteConsultsItsProtectCell :
    (lockedStart .new).dev = some (dev .new 0 0) ∧
    protectCell fixNew (indexOf 0x500) = some 322 ∧ inRange (mode .new) 4 0x500 = true
      ∧ policy (mode .new) (indexOf 0x500) = .w1sp ∧ GateOpen fixNew (dev .new 0 0).x 0x500
      ∧ RegFile.cell (dev .new 0 0).x 322 = 0
      ∧ RegFile.cell (Device.poke (dev .new 0 0) 322 0x100).x 322 ≠ 0 := by
  refine ⟨rfl, by decide +kernel, by decide +kernel, by decide +kernel, ?_, by decide +kernel, by decide +kernel⟩
  unfold GateOpen
  decide +kernel

theorem witness_RandomCellWriteIsRejected :
    (lockedStart .new).dev = some (dev .new 0 0) ∧
    inRange (mode .new) 4 0x540 = true ∧ policy (mode .new) (indexOf 0x540) = .rng
      ∧ GateOpen fixNew (dev .new 0 0).x 0x540 := by
  refine ⟨rfl, by decide +kernel, by decide +kernel, ?_⟩
  unfold GateOpen
  decide +kernel

/-- A reset-control cell, and a strap whose protect cell is zero. -/
theorem witness_SetClearRoundTrip :
    (fresh .new).dev = some (dev .new 0 0x1688A8A8) ∧
    (fresh .new).Inv ∧ (dev .new 0 0x1688A8A8).cfg.variant = .new ∧ fixNew.lockBlocks = false
      ∧ (0x040 : Word).toNat % 4 = 0 ∧ (0x044 : Word).toNat % 4 = 0
      ∧ clrTarget fixNew (indexOf 0x044) = some (indexOf 0x040) ∧ indexOf 0x040 ∈ fixNew.w1sSet
      ∧ clrTarget fixNew (indexOf 0x504) = some (indexOf 0x500)
      ∧ protectCell fixNew (indexOf 0x500) = some 322 ∧ RegFile.cell (dev .new 0 0x1688A8A8).x 322 = 0 :=
  ⟨rfl, test_fresh_inv .new _ (by decide), rfl, rfl, by decide, by decide, by decide +kernel, by decide +kernel,
    by decide +kernel, by decide +kernel, by decide +kernel⟩

theorem witness_PlainWriteThenReadReturnsIt :
    (fresh .old).dev = some (dev .old 0 0x1688A8A8) ∧
    (fresh .old).Inv ∧ fixOld.lockBlocks = false ∧ indexOf 0x00D = indexOf 0x00E
      ∧ inRange (mode .old) 2 0x00E = true ∧ inRange (mode .old) 1 0x00D = true
      ∧ policy (mode .old) (indexOf 0x00E) = .plain :=
  ⟨rfl, test_fresh_inv .old _ (by decide), rfl, by decide, by decide +kernel, by decide +kernel, by decide +kernel⟩

theorem witness_PlainReadReturnsTheCell :
    (fresh .new).dev = some (dev .new 0 0x1688A8A8) ∧
    inRange (mode .new) 4 0x044 = true ∧ policy (mode .new) (indexOf 0x044) ≠ .rng
      ∧ policy (mode .new) (indexOf 0x044) ≠ .wowarn := by decide +kernel

theorem witness_RandomReadReplacesTheCell :
    (fresh .old).dev = some (dev .old 0 0x1688A8A8) ∧
    inRange (mode .old) 1 0x079 = true ∧ policy (mode .old) (indexOf 0x079) = .rng
      ∧ ({ fresh .old with rngIn := [7, 8] } : State).rngIn = 7 :: [8] ∧ (fresh .old).rngIn = [] :=
  ⟨rfl, by decide +kernel, by decide +kernel, rfl, rfl⟩

theorem witness_WriteOnlyReadIsFlagged :
    (fresh .old).dev = some (dev .old 0 0x1688A8A8) ∧
    inRange (mode .old) 4 0x0C0 = true ∧ policy (mode .old) (indexOf 0x0C0) = .wowarn := by decide +kernel

theorem witness_ReadOnlyAndClearCellsReadAsReset :
    (fresh .new).dev = some (dev .new 0 0x1688A8A8) ∧
    (fresh .new).Inv ∧ indexOf 0x014 ∈ fixNew.roSet ∧ indexOf 0x044 ∈ fixNew.clrOf.map Prod.fst :=
  ⟨rfl, test_fresh_inv .new _ (by decide), by decide +kernel, by decide +kernel⟩

theorem witness_OnlyTheRandomReadTakesADraw :
    (∃ t, exec .reset { fresh .mid with rngIn := [7] } = .next t) ∧ ∀ w o, Instr.reset ≠ .rdRng w o :=
  ⟨⟨_, rfl⟩, by simp⟩

theorem witness_FrequencyQuery :
    (fresh .old).dev = some (dev .old 0 0x1688A8A8) ∧ (dev .old 0 0x1688A8A8).cfg.variant = .old
      ∧ (fresh .mid).dev = some (dev .mid 0 0x1688A8A8) ∧ (dev .mid 0 0x1688A8A8).cfg.variant ≠ .old
      ∧ (fresh .new).dev = some (dev .new 0 0x1688A8A8) ∧ (dev .new 0 0x1688A8A8).cfg.variant ≠ .old := by
  refine ⟨rfl, rfl, rfl, ?_, rfl, ?_⟩ <;> decide +kernel

theorem witness_PllOffGivesZero :
    (poke (fresh .old) 9 0x00050291).dev = some (Device.poke (dev .old 0 0x1688A8A8) 9 0x00050291)
      ∧ (RegFile.cell (Device.poke (dev .old 0 0x1688A8A8) 9 0x00050291).x fixOld.hpll).getLsbD fixOld.aOffBit = true
      ∧ (poke (fresh .mid) 9 0x00180000).dev = some (Device.poke (dev .mid 0 0x1688A8A8) 9 0x00180000)
      ∧ (RegFile.cell (Device.poke (dev .mid 0 0x1688A8A8) 9 0x00180000).x fixMid.hpll).getLsbD fixMid.bOffBit
          = true :=
  ⟨rfl, by decide +kernel, rfl, by decide +kernel⟩

theorem witness_StrapFallbackIsTheTableEntry :
    (0x00000291 : Word).getLsbD fixOld.aOffBit = false ∧ (0x00000291 : Word).getLsbD fixOld.aProgBit = false
      ∧ (dev .old 0x00040200 1).cfg.hwStrap1.getLsbD fixOld.a25mBit = false := by decide +kernel

theorem witness_QueryIsOneDivisionAndBounded :
    (fresh .mid).dev = some (dev .mid 0 0x1688A8A8)
      ∧ ∃ t f, exec (decodeQuery (mode .mid)) (fresh .mid) = .next t ∧ t.out.pclkHz = some f :=
  ⟨rfl, _, _, rfl, rfl⟩

theorem witness_ResetReloadsDefaultsThenConfiguration :
    (fresh .new).params.wf = true ∧ (fresh .new).dev = some (dev .new 0 0x1688A8A8) :=
  ⟨by decide +kernel, rfl⟩

theorem witness_ResetForgetsTheFile :
    (poke (fresh .mid) 2 5).dev = some (Device.poke (dev .mid 0 0x1688A8A8) 2 5)
      ∧ ∃ t, exec .reset (poke (fresh .mid) 2 5) = .next t := ⟨rfl, _, rfl⟩

theorem witness_ConstructionMakesAResetInstance :
    ((0 : BitVec 2).toNat = 0) ∧ ((1 : BitVec 2).toNat = 1) ∧ ((2 : BitVec 2).toNat = 2)
      ∧ (0x05030303 : Word) ∈ fix.revAllow ∧ (0x02000303 : Word) ∈ fix.revAllow := by decide +kernel

theorem witness_ConstructionFailsCleanly :
    (3 : BitVec 2).toNat = 3 ∧ (0x04020303 : Word) ∉ fix.revAllow := by decide +kernel

theorem witness_DiagnosticSetsThatOccur :
    ∃ t, exec (.wrRo 4 0x07C 0) (lockedStart .mid) = .next t ∧ t.out.diag ≠ {} :=
  ⟨_, rfl, by decide +kernel⟩

theorem witness_ErrLeavesEverythingAsItWas :
    ∃ t, exec (.rdBuserr 2 0x008) (fresh .mid) = .next t ∧ t.out.resp = .err := ⟨_, rfl, rfl⟩

theorem witness_FrameOfRowsThatKeepTheFile :
    (Instr.wrRo 4 0x07C 0).keepsFile = true ∧ ∃ t, exec (.wrRo 4 0x07C 0) (fresh .mid) = .next t := ⟨rfl, _, rfl⟩

theorem witness_FrameOfWritesToTheirOwnCell :
    (fresh .mid).dev = some (dev .mid 0 0x1688A8A8) ∧
    (Instr.wrPlain 4 0x008 5).writeOffset = some 0x008 ∧ (∀ w o wd, Instr.wrPlain 4 0x008 5 ≠ .wrW1c w o wd)
      ∧ ∃ t, exec (.wrPlain 4 0x008 5) (fresh .mid) = .next t := ⟨rfl, rfl, by simp, _, rfl⟩

/-- The clear cell itself is outside the target. -/
theorem witness_FrameOfPairedClear :
    (fresh .new).dev = some (dev .new 0 0x1688A8A8) ∧
    clrTarget fixNew (indexOf 0x044) ≠ some 17 ∧ ∃ t, exec (.wrW1c 4 0x044 1) (fresh .new) = .next t :=
  ⟨rfl, by decide +kernel, _, rfl⟩

theorem witness_FrameOfRandomRead :
    (fresh .new).dev = some (dev .new 0 0x1688A8A8) ∧ ∃ t, exec (.rdRng 4 0x540) (fresh .new) = .next t := ⟨rfl, _, rfl⟩

theorem witness_FrameOfResetAndConstruction :
    (∃ t, exec .reset (fresh .mid) = .next t)
      ∧ ∃ t, exec (.construct 2 0x05000303 0 0 0) (fresh .mid) = .next t := ⟨⟨_, rfl⟩, _, rfl⟩

theorem witness_UnlockAndLockWords :
    (lockedStart .mid).dev = some (dev .mid 0 0) ∧
    (lockedStart .mid).Inv ∧ 4 * fixMid.k < 2 ^ 32 ∧ fix.unlockConst ≠ 0 :=
  ⟨rfl, test_fresh_inv .mid _ (by decide), by decide +kernel, by decide +kernel⟩

theorem witness_ClrBitsWordAddressesTheClearCell :
    fix.wf = true ∧ clrBitsWord (vdOf fix .new) 324 1 = some (.tw 0x1_4_00000514_00000001) := by decide +kernel

end Sys2Proof.Tests
end

/-! PROOFS, family 00_scope.md: what a step can do to the device, said once (`exec_answers`), and the invariant of a
run and the immutable configuration derived from it. -/

namespace Sys2Proof

open Machine

/-! ### The decoder gives rows of the mode -/

/-- The row of a read has its select condition (R70, R72, R77). -/
theorem decodeRead_wellFormed (m : Mode) (w : BitVec 4) (o : Word) : (decodeRead m w o).WellFormed m := by
  unfold decodeRead
  split
  · split
    · split <;> simp_all [Instr.WellFormed, Instr.wf, selects, inRange]
    · simp_all [Instr.WellFormed, Instr.wf]
  · simp_all [Instr.WellFormed, Instr.wf]

/-- The row of a write has its select condition (R70, R73, R76). -/
theorem decodeWrite_wellFormed (m : Mode) (w : BitVec 4) (o d : Word) : (decodeWrite m w o d).WellFormed m := by
  unfold decodeWrite
  split
  · split
    · split <;> simp_all [Instr.WellFormed, Instr.wf, selects, inRange]
    · simp_all [Instr.WellFormed, Instr.wf]
  · simp_all [Instr.WellFormed, Instr.wf]

/-- The row of a query has its select condition (R99). -/
theorem decodeQuery_wellFormed (m : Mode) : (decodeQuery m).WellFormed m := by
  unfold decodeQuery
  split <;> simp_all [Instr.WellFormed, Instr.wf]

/-- Whatever a transaction word decodes to meets a property that the reads, the writes, the queries, the reset and the
reserved rows have: the rows of R51 and R56. -/
theorem decodeTw_induction {P : Instr → Prop} (m : Mode) (w : BitVec 72)
    (hr : ∀ b o, P (decodeRead m b o)) (hw : ∀ b o d, P (decodeWrite m b o d)) (hreset : P .reset)
    (hq : P (decodeQuery m)) (h47 : ∀ r, P (.rsvdOp47 r)) (h8F : ∀ r, P (.rsvdOp8F r)) : P (decodeTw m w) := by
  unfold decodeTw
  split_ifs
  · exact hr _ _
  · exact hw _ _ _
  · exact hreset
  · exact hq
  · exact h47 _
  · exact h8F _

/-- Every operation the decoder gives is one of the mode. -/
theorem decode_wellFormed {m : Mode} {r : Request} {i : Instr} (h : decode (some m) r = .ok i) : i.WellFormed m := by
  cases r with
  | cfg w => cases h; rfl
  | tw w =>
    cases h
    exact decodeTw_induction m w (decodeRead_wellFormed m) (decodeWrite_wellFormed m) rfl (decodeQuery_wellFormed m)
      (fun _ => rfl) (fun _ => rfl)

/-- The row is a construction, the one row a configuration word carries (R53). -/
def Instr.IsConstruct : Instr → Prop
  | .construct _ _ _ _ _ => True
  | _ => False

theorem not_isConstruct_decodeRead (m : Mode) (w : BitVec 4) (o : Word) : ¬ (decodeRead m w o).IsConstruct := by
  unfold decodeRead
  split
  · split
    · split <;> exact id
    · exact id
  · exact id

theorem not_isConstruct_decodeWrite (m : Mode) (w : BitVec 4) (o d : Word) :
    ¬ (decodeWrite m w o d).IsConstruct := by
  unfold decodeWrite
  split
  · split
    · split <;> exact id
    · exact id
  · exact id

theorem not_isConstruct_decodeQuery (m : Mode) : ¬ (decodeQuery m).IsConstruct := by
  unfold decodeQuery
  split <;> exact id

/-- No transaction word is a construction. -/
theorem not_isConstruct_of_decode_tw {m : Option Mode} {w : BitVec 72} {i : Instr} (h : decode m (.tw w) = .ok i) :
    ¬ i.IsConstruct := by
  cases m with
  | none => cases h
  | some m =>
    cases h
    exact decodeTw_induction (P := (¬ ·.IsConstruct)) m w (not_isConstruct_decodeRead m)
      (not_isConstruct_decodeWrite m) id (not_isConstruct_decodeQuery m) (fun _ => id) (fun _ => id)

end Sys2Proof

namespace Sys2Proof.Machine

/-! ### What an operation can do to the device -/

/-- `DevStep s i e`: row `i`, performed in state `s`, may leave the device `e`. -/
inductive DevStep (s : State) : Instr → Option Device → Prop
  /-- A refused construction leaves none (R130). -/
  | refused (c : BitVec 2) (rev s1 s2 key : Word) : DevStep s (.construct c rev s1 s2 key) none
  /-- A construction with an allowed revision leaves a device just reset (R130). -/
  | built {c : BitVec 2} {v : Variant} {rev : Word} (s1 s2 key : Word) (hv : variantOfCode c = some v)
      (hrev : rev ∈ s.params.revAllow) :
      DevStep s (.construct c rev s1 s2 key) (some (construct s.params ⟨v, rev, s1, s2, key⟩))
  /-- `RESET` leaves the device as its configuration constructs it (R131). -/
  | reset {d : Device} (hd : s.dev = some d) : DevStep s .reset (some (construct s.params d.cfg))
  /-- A random read replaces the cell it reads (R91). -/
  | random {d : Device} (w : BitVec 4) (o : Word) (hd : s.dev = some d) :
      DevStep s (.rdRng w o) (some ⟨d.cfg, RegFile.put d.x (indexOf o) s.draw⟩)
  /-- A write the gate lets through applies its policy (R76). -/
  | written {d : Device} {i : Instr} {o : Word} (hd : s.dev = some d) (ho : i.writeOffset = some o) :
      DevStep s i (some ⟨d.cfg, (policyWrite s.params i (s.vd d) d.x).x⟩)
  /-- Any other row, and a write the gate blocks, keeps the device. -/
  | kept {d : Device} {i : Instr} (hd : s.dev = some d) (hi : ¬ i.IsConstruct) : DevStep s i (some d)

/-- `t` answers row `i` in state `s`: the parameters and what is delivered stay, and the device becomes one that
`DevStep` allows. -/
def Answers (s : State) (i : Instr) (t : State) : Prop :=
  t.params = s.params ∧ t.pending = s.pending ∧ DevStep s i t.dev

/-- A reply that only sets the outputs keeps the device. -/
theorem answers_of_withDevice_reply {s t : State} {i : Instr} {f : Device → Output} (hi : ¬ i.IsConstruct)
    (h : withDevice s (fun d => reply s (f d)) = .next t) : Answers s i t := by
  obtain ⟨d, hd, ht⟩ := withDevice_next h
  cases ht
  exact ⟨rfl, rfl, hd ▸ .kept hd hi⟩

/-- An answer `ERR` keeps the device (R115). -/
theorem answers_of_respondErr {s t : State} {i : Instr} (hi : ¬ i.IsConstruct)
    (h : withDevice s (fun _ => respondErr s) = .next t) : Answers s i t := by
  obtain ⟨d, hd, ht⟩ := withDevice_next h
  cases ht
  exact ⟨rfl, rfl, hd ▸ .kept hd hi⟩

/-- An in-range write keeps the device or applies its policy (R74 to R76). -/
theorem answers_of_write {s t : State} {i : Instr} {o : Word} (ho : i.writeOffset = some o)
    (h : exec i s = .next t) : Answers s i t := by
  have hi : ¬ i.IsConstruct := by cases i <;> simp_all [Instr.writeOffset, Instr.IsConstruct]
  rw [exec_write s ho] at h
  obtain ⟨d, hd, -⟩ := withDevice_next h
  obtain ⟨-, -, hb⟩ | ⟨-, hb⟩ := gatedWrite_cases o (policyWrite s.params i) hd <;> rw [hb] at h <;> cases h
  · exact ⟨rfl, rfl, hd ▸ .kept hd hi⟩
  · exact ⟨rfl, rfl, .written hd ho⟩

theorem answers_of_execConstruct {s t : State} {c : BitVec 2} {rev s1 s2 key : Word}
    (h : execConstruct c rev s1 s2 key s = .next t) : Answers s (.construct c rev s1 s2 key) t := by
  unfold execConstruct at h
  split at h
  next => cases h; exact ⟨rfl, rfl, .refused ..⟩
  next v hv =>
    split at h
    next hrev => cases h; exact ⟨rfl, rfl, .built s1 s2 key hv (List.contains_iff_mem.1 hrev)⟩
    next => cases h; exact ⟨rfl, rfl, .refused ..⟩

theorem answers_of_execReset {s t : State} (h : execReset s = .next t) : Answers s .reset t := by
  obtain ⟨d, hd, ht⟩ := withDevice_next h
  cases ht
  exact ⟨rfl, rfl, .reset hd⟩

theorem answers_of_execRdRng {s t : State} {w : BitVec 4} {o : Word} (h : execRdRng w o s = .next t) :
    Answers s (.rdRng w o) t := by
  obtain ⟨d, hd, ht⟩ := withDevice_next h
  cases ht
  exact ⟨by simp, by simp, .random w o hd⟩

/-- Everything an operation can do to the parameters, the deliveries and the device. -/
theorem exec_answers {i : Instr} {s t : State} (h : exec i s = .next t) : Answers s i t := by
  cases i with
  | construct => exact answers_of_execConstruct h
  | reset => exact answers_of_execReset h
  | rdRng => exact answers_of_execRdRng h
  | rdBuserr | wrBuserr | rsvdOp47 | rsvdOp8F => exact answers_of_respondErr id h
  | pclkqA | pclkqB | rdOor | wrOor | rdPlain | rdWowarn => exact answers_of_withDevice_reply id h
  | wrPlain | wrRo | wrKey | wrW1s | wrW1c | wrW1sp | wrRng => exact answers_of_write rfl h

/-- A row other than a construction keeps the configuration (R9, R12). -/
theorem DevStep.cfg_eq {s : State} {i : Instr} {e : Option Device} (h : DevStep s i e) (hi : ¬ i.IsConstruct) :
    e.map Device.cfg = s.dev.map Device.cfg := by
  cases h with
  | refused | built => exact absurd trivial hi
  | reset hd | random _ _ hd | written hd _ | kept hd _ => exact hd ▸ rfl

/-! ### The cells no operation but a reset touches -/

/-- Cell `j` is read-only or a clear cell: the cells whose value the invariant fixes (R81(b), R84(a)). -/
def FixedCell (vd : Descriptor) (j : Nat) : Prop := j ∈ vd.roSet ∨ j ∈ vd.clrOf.map Prod.fst

/-- Only `V_NEW` has clear cells (R7(c)). -/
theorem variant_eq_new_of_mem_clrOf {v : Variant} {vd : Descriptor} (h : wfPairs v vd = true) {c : Nat}
    (hc : c ∈ vd.clrOf.map Prod.fst) : v = .new := by
  by_contra hv
  obtain ⟨-, -, hempty, -⟩ := wfPairs_clr h
  simp [(hempty hv).1] at hc

/-- A clear cell is a cell of `V_NEW` and in no other class (R7(b), R7(c)). -/
theorem clearCell_apart {v : Variant} {vd : Descriptor} (hwf : vd.wf v = true) {c : Nat}
    (hc : c ∈ vd.clrOf.map Prod.fst) :
    v = .new ∧ c ≠ vd.k ∧ c ∉ vd.roSet ∧ c ≠ vd.rngData ∧ c ∉ vd.woWarnSet ∧ c ≠ vd.strap1 ∧ c ≠ vd.strap2
      ∧ c ∉ vd.w1sSet := by
  obtain ⟨-, hcls, hpairs, -⟩ := Descriptor.wf_clauses hwf
  obtain ⟨⟨-, -, -, -, hk⟩, hro, ⟨-, -, hrng⟩, hwo, hw1s, hstrap⟩ := wfClasses_apart hcls
  have hv := variant_eq_new_of_mem_clrOf hpairs hc
  have strap_ne : ∀ s, s = vd.strap1 ∨ s = vd.strap2 → c ≠ s := by
    rintro s hs rfl
    obtain ⟨-, -, -, -, -, hclr⟩ := hstrap hv c hs
    exact hclr hc
  have not_ro : c ∉ vd.roSet := fun hm => by
    obtain ⟨-, -, -, hclr⟩ := hro c hm
    exact hclr hc
  exact ⟨hv, fun e => hk (e ▸ hc), not_ro, fun e => hrng (e ▸ hc), fun hm => (hwo c hm).2 hc,
    strap_ne _ (.inl rfl), strap_ne _ (.inr rfl), fun hm => hw1s c hm hc⟩

/-- A fixed cell's tag is `RO` or `W1C` (R58). -/
theorem policy_of_fixedCell {v : Variant} {vd : Descriptor} (hwf : vd.wf v = true) {j : Nat} (hj : FixedCell vd j) :
    policy ⟨v, vd⟩ j = .ro ∨ policy ⟨v, vd⟩ j = .w1c := by
  rcases hj with hj | hj
  · left
    obtain ⟨-, hcls, -⟩ := Descriptor.wf_clauses hwf
    obtain ⟨⟨hkro, -⟩, -⟩ := wfClasses_apart hcls
    have hk : j ≠ vd.k := fun e => hkro (e ▸ hj)
    simp [policy, hk, hj]
  · right
    obtain ⟨hv, hk, hro, hrng, hwo, hs1, hs2, hw1s⟩ := clearCell_apart hwf hj
    have hclr : (clrTarget vd j).isSome = true := (lookup_isSome_iff _ _).2 hj
    simp [policy, hv, hk, hro, hrng, hwo, hs1, hs2, hw1s, hclr]

/-- No clear cell has a fixed cell as its target (R7(b), R7(c)). -/
theorem not_fixedCell_clrTarget {v : Variant} {vd : Descriptor} (hwf : vd.wf v = true) {c t : Nat}
    (ht : clrTarget vd c = some t) : ¬ FixedCell vd t := by
  obtain ⟨-, hcls, hpairs, -⟩ := Descriptor.wf_clauses hwf
  obtain ⟨-, hro, -, -, hw1s, hstrap⟩ := wfClasses_apart hcls
  have hmem := mem_of_lookup ht
  have hv := variant_eq_new_of_mem_clrOf hpairs (List.mem_map_of_mem (f := Prod.fst) hmem)
  rcases (wfPairs_clr hpairs).1 c t hmem with hset | hs
  · rintro (hr | hc)
    · obtain ⟨-, -, hnot, -⟩ := hro t hr
      exact hnot hset
    · exact hw1s t hset hc
  · obtain ⟨-, hr, -, -, -, hc⟩ := hstrap hv t hs
    exact not_or.2 ⟨hr, hc⟩

/-- A select condition by tags: an in-range access to a cell with one of the tags. -/
theorem selects_iff (m : Mode) (w : BitVec 4) (o : Word) (tags : List Policy) :
    selects m w o tags = true ↔ inRange m w o = true ∧ policy m (indexOf o) ∈ tags := by
  simp [selects]

/-- A write that may store to the cell it addresses addresses neither a read-only nor a clear cell. -/
theorem policy_of_storing_write {m : Mode} {i : Instr} {o : Word} (hi : i.WellFormed m)
    (ho : i.writeOffset = some o) (hk : i.keepsFile = false) (hc : ∀ w o' d, i ≠ .wrW1c w o' d) :
    policy m (indexOf o) ≠ .ro ∧ policy m (indexOf o) ≠ .w1c := by
  cases i <;> simp only [Instr.writeOffset, Option.some.injEq, reduceCtorEq] at ho <;> subst ho
  case wrRo | wrRng => cases hk
  case wrW1c => exact absurd rfl (hc _ _ _)
  all_goals
    obtain ⟨-, htag⟩ := (selects_iff ..).1 hi
    constructor <;> intro e <;> simp [e] at htag

/-- No write changes a fixed cell (R81, R84). -/
theorem policyWrite_fixedCell {p : Params} {v : Variant} {vd : Descriptor} {i : Instr} {o : Word} {x : RegFile}
    (hwf : vd.wf v = true) (hi : i.WellFormed ⟨v, vd⟩) (ho : i.writeOffset = some o) {j : Nat}
    (hj : FixedCell vd j) : RegFile.cell (policyWrite p i vd x).x j = RegFile.cell x j := by
  by_contra hne
  obtain ⟨hk, ⟨rfl, hc⟩ | ⟨-, ht⟩⟩ := policyWrite_cell ho hne
  · obtain ⟨hro, hw1c⟩ := policy_of_storing_write hi ho hk hc
    exact (policy_of_fixedCell hwf hj).elim hro hw1c
  · exact not_fixedCell_clrTarget hwf ht hj

/-- A random read reads no fixed cell (R91). -/
theorem fixedCell_ne_of_rdRng {v : Variant} {vd : Descriptor} {w : BitVec 4} {o : Word} (hwf : vd.wf v = true)
    (hi : (Instr.rdRng w o).WellFormed ⟨v, vd⟩) {j : Nat} (hj : FixedCell vd j) : j ≠ indexOf o := by
  rintro rfl
  have hrng : policy ⟨v, vd⟩ (indexOf o) = .rng := List.mem_singleton.1 ((selects_iff ..).1 hi).2
  rcases policy_of_fixedCell hwf hj with h | h <;> rw [hrng] at h <;> cases h

/-! ### What reset loads -/

/-- Step 3 of R131 stores to the silicon-revision cell only, and on `V_NEW` only. -/
theorem cell_aliasOver_ne (v : Variant) (vd : Descriptor) (x : RegFile) {j : Nat}
    (hj : v = .new → j ≠ vd.aliasCell) : RegFile.cell (aliasOver v vd x) j = RegFile.cell x j := by
  cases v with
  | new => exact RegFile.cell_put_ne x _ (hj rfl)
  | mid | old => rfl

/-- Reset loads every clear cell with its default: no configured word and no silicon revision is stored there
(R7(b), R7(d)). -/
theorem cell_resetImage_of_clear {vd : Descriptor} (cfg : DeviceConfig) (hwf : vd.wf cfg.variant = true) {c : Nat}
    (hc : c ∈ vd.clrOf.map Prod.fst) : RegFile.cell (resetImage vd cfg) c = RegFile.cell vd.defaults c := by
  obtain ⟨-, -, -, hident, -⟩ := Descriptor.wf_clauses hwf
  obtain ⟨hid, halias⟩ := wfIdent_mem hident
  obtain ⟨-, hk, hro, -, -, hs1, hs2, -⟩ := clearCell_apart hwf hc
  have ne_ro : ∀ i ∈ vd.roSet, c ≠ i := fun i hi e => hro (e ▸ hi)
  rw [resetImage, cell_aliasOver_ne _ _ _ (fun hv => ne_ro _ (halias hv).1), RegFile.cell_put_ne _ _ hk,
    RegFile.cell_put_ne _ _ hs2, RegFile.cell_put_ne _ _ hs1, RegFile.cell_put_ne _ _ (ne_ro _ hid)]

/-! ### The invariant -/

/-- A constructed device meets the invariant (R130, R131). -/
theorem construct_inv {p : Params} {cfg : DeviceConfig} (hp : p.wf = true) (hrev : cfg.siliconRev ∈ p.revAllow) :
    Device.Inv p (construct p cfg) := by
  have hwf := Params.wf_vdOf hp cfg.variant
  obtain ⟨-, -, -, -, -, -, -, hsizes, -⟩ := Descriptor.wf_clauses hwf
  exact ⟨hrev, resetImage_wf cfg hsizes, fun _ _ => rfl, fun _ hc => cell_resetImage_of_clear cfg hwf hc⟩

/-- A file of the same length with the same fixed cells keeps the invariant. -/
theorem Device.Inv.of_fixedCell_eq {p : Params} {d : Device} {x : RegFile} (h : Device.Inv p d)
    (hlen : x.length = d.x.length)
    (hx : ∀ j, FixedCell (vdOf p d.cfg.variant) j → RegFile.cell x j = RegFile.cell d.x j) :
    Device.Inv p ⟨d.cfg, x⟩ := by
  obtain ⟨hrev, hfile, hro, hclr⟩ := h
  refine ⟨hrev, ?_, fun i hi => (hx i (.inl hi)).trans (hro i hi), fun c hc => (hx c (.inr hc)).trans (hclr c hc)⟩
  simpa [RegFile.wf, hlen] using hfile

/-- An operation of the device's mode, or a construction where there is no device, keeps the invariant of the
device. -/
theorem DevStep.inv {s : State} {i : Instr} {e : Option Device} (h : DevStep s i e) (hs : s.Inv)
    (hi : ∀ d, s.dev = some d → i.WellFormed (modeOf s.params d.cfg.variant)) :
    ∀ d', e = some d' → Device.Inv s.params d' := by
  obtain ⟨hp, hdev⟩ := hs
  cases h with
  | refused => nofun
  | built s1 s2 key hv hrev => rintro _ ⟨⟩; exact construct_inv hp hrev
  | reset hd => rintro _ ⟨⟩; exact construct_inv hp (hdev _ hd).1
  | kept hd => rintro _ ⟨⟩; exact hdev _ hd
  | random w o hd =>
    rintro _ ⟨⟩
    exact (hdev _ hd).of_fixedCell_eq (RegFile.put_length ..) fun j hj =>
      RegFile.cell_put_ne _ _ (fixedCell_ne_of_rdRng (Params.wf_vdOf hp _) (hi _ hd) hj)
  | written hd ho =>
    rintro _ ⟨⟩
    exact (hdev _ hd).of_fixedCell_eq (policyWrite_length ..) fun j hj =>
      policyWrite_fixedCell (Params.wf_vdOf hp _) (hi _ hd) ho hj

end Sys2Proof.Machine

namespace Sys2Proof

open Machine

/-- Settles O12: a step idles or performs an operation of the device's mode. Reset and construction load the cells whose
value the invariant fixes as it asks, and every other operation stores to none of them. -/
theorem everyStepKeepsTheInvariant : Obligations.EveryStepKeepsTheInvariant := by
  intro s t hs hstep
  rcases step_next hstep with ⟨-, rfl⟩ | ⟨r, rest, i, -, hdec, hexec⟩
  · exact hs
  · obtain ⟨hparams, -, hdev⟩ := exec_answers hexec
    have hi : ∀ d, s.dev = some d → i.WellFormed (modeOf s.params d.cfg.variant) := fun d hd =>
      decode_wellFormed (State.mode_of_dev hd ▸ hdec)
    unfold State.Inv
    rw [hparams]
    exact ⟨hs.1, hdev.inv hs hi⟩

/-- Settles O14: no operation stores to the parameters, and no transaction word decodes to a construction, the one
operation that may change the configuration. -/
theorem configurationIsImmutable : Obligations.ConfigurationIsImmutable := by
  intro s t hstep
  rcases step_next hstep with ⟨-, rfl⟩ | ⟨r, rest, i, hpend, hdec, hexec⟩
  · exact ⟨rfl, fun _ _ _ => rfl⟩
  · obtain ⟨hparams, -, hdev⟩ := exec_answers hexec
    refine ⟨hparams, fun w rest' hw => ?_⟩
    obtain ⟨rfl, -⟩ := List.cons.inj (hpend.symm.trans hw)
    exact hdev.cfg_eq (not_isConstruct_of_decode_tw hdec)

/-- Settles O11: the reset state holds the device that the reference configuration constructs. -/
theorem resetStateMeetsTheInvariant : Obligations.ResetStateMeetsTheInvariant := by
  have hwf : refParams.wf = true := by decide +kernel
  have hrev : refConfig.siliconRev ∈ refParams.revAllow := by decide
  refine ⟨hwf, ?_⟩
  rintro _ ⟨⟩
  exact construct_inv hwf hrev

end Sys2Proof

/-! PROOFS, family 10_state.md: a step as one decoded operation, which cells a step may change, and the frame of an
in-range write. -/

namespace Sys2Proof.Machine

/-- A cell tagged `KEY` is the key cell (R58). -/
theorem eq_k_of_policy_key {m : Mode} {i : Nat} (h : policy m i = .key) : i = m.vd.k := by
  unfold policy at h
  split_ifs at h
  assumption

/-- A cell tagged `RNG` is the random-data cell (R58). -/
theorem eq_rngData_of_policy_rng {m : Mode} {i : Nat} (h : policy m i = .rng) : i = m.vd.rngData := by
  unfold policy at h
  split_ifs at h
  assumption

/-- A cell that a write of mode `m` changes by its policy is one the write may store to (R14): its own cell, or the
target of a paired clear. -/
theorem mayChange_of_policyWrite_cell_ne {p : Params} {m : Mode} {i : Instr} {o : Word} {x : RegFile} {j : Nat}
    (hi : i.WellFormed m) (ho : i.writeOffset = some o)
    (hj : RegFile.cell (policyWrite p i m.vd x).x j ≠ RegFile.cell x j) : i.mayChange m.vd j := by
  obtain ⟨hkeeps, ⟨rfl, hc⟩ | ⟨⟨w, wd, rfl⟩, ht⟩⟩ := policyWrite_cell ho hj
  · cases i with
    | wrPlain | wrW1s | wrW1sp => cases ho; rfl
    | wrKey => cases ho; exact ⟨rfl, eq_k_of_policy_key (List.mem_singleton.1 ((selects_iff ..).1 hi).2)⟩
    | wrW1c => exact absurd rfl (hc _ _ _)
    | wrRo | wrRng => cases hkeeps
    | _ => cases ho
  · cases ho
    exact ht

/-- A row of the device's mode changes only the cells it may change (R14). -/
theorem DevStep.mayChange {s : State} {d d' : Device} {i : Instr} {j : Nat} (h : DevStep s i (some d'))
    (hd : s.dev = some d) (hi : i.WellFormed (modeOf s.params d.cfg.variant))
    (hj : RegFile.cell d'.x j ≠ RegFile.cell d.x j) : i.mayChange (s.vd d) j := by
  cases h with
  | built | reset => trivial
  | random w o he =>
    cases hd.symm.trans he
    have hidx : j = indexOf o := by
      by_contra hne
      exact hj (RegFile.cell_put_ne d.x s.draw hne)
    exact ⟨hidx, hidx ▸ eq_rngData_of_policy_rng (List.mem_singleton.1 ((selects_iff ..).1 hi).2)⟩
  | written he ho =>
    cases hd.symm.trans he
    exact mayChange_of_policyWrite_cell_ne hi ho hj
  | kept he =>
    cases hd.symm.trans he
    exact absurd rfl hj

/-- An in-range write changes the device and the outputs alone, and the device at most by its policy (R74 to R76). -/
theorem exec_write_next {s t : State} {d : Device} {i : Instr} {o : Word} (hd : s.dev = some d)
    (ho : i.writeOffset = some o) (h : exec i s = .next t) :
    ∃ d', t = { s with dev := some d', out := t.out }
      ∧ (d' = d ∨ d' = ⟨d.cfg, (policyWrite s.params i (s.vd d) d.x).x⟩) := by
  rw [exec_write s ho] at h
  obtain ⟨-, -, hb⟩ | ⟨-, hb⟩ := gatedWrite_cases o (policyWrite s.params i) hd <;> rw [hb] at h <;> cases h
  · exact ⟨d, hd ▸ rfl, .inl rfl⟩
  · exact ⟨_, rfl, .inr rfl⟩

/-- With nothing delivered a step changes nothing (R17). -/
theorem step_of_pending_nil {s : State} (h : s.pending = []) : step s = .next s := by
  have hfetch : fetch s = none := by simp only [fetch, h]
  rw [step, hfetch, idle]

end Sys2Proof.Machine

namespace Sys2Proof

open Machine

/-- Settles O8, by the equation of a step for each form of what is delivered. -/
theorem stepRunsTheDecodedOperation : Obligations.StepRunsTheDecodedOperation := by
  refine ⟨fun s r rest i hpend hdec => ?_, fun s hpend => step_of_pending_nil hpend⟩
  rw [step_of_pending hpend, hdec]

/-- Settles O13: a step that changes a cell does not idle, and the operation it performs is one of the device's mode,
which changes only the cells it may change. -/
theorem cellsChangeOnlyByTheseOperations : Obligations.CellsChangeOnlyByTheseOperations := by
  intro s t d d' j _ hd hstep hd' hj
  rcases step_next hstep with ⟨-, rfl⟩ | ⟨r, rest, i, hpend, hdec, hexec⟩
  · cases hd.symm.trans hd'
    exact absurd rfl hj
  · obtain ⟨-, -, hdev⟩ := exec_answers hexec
    have hi : i.WellFormed (modeOf s.params d.cfg.variant) := decode_wellFormed (State.mode_of_dev hd ▸ hdec)
    exact ⟨r, rest, i, hpend, hdec, (hd' ▸ hdev).mayChange hd hi hj⟩

/-- Settles O54: the device is as before or as the write's policy leaves it, and a policy other than the paired clear
stores to its own cell only. -/
theorem frameOfWritesToTheirOwnCell : Obligations.FrameOfWritesToTheirOwnCell := by
  intro s t d i o hd ho hc hexec
  obtain ⟨d', ht, rfl | rfl⟩ := exec_write_next hd ho hexec
  · exact ⟨d', ht, rfl, rfl, fun _ _ => rfl⟩
  · refine ⟨_, ht, rfl, policyWrite_length .., fun j hj => ?_⟩
    by_contra hne
    obtain ⟨-, ⟨hidx, -⟩ | ⟨⟨w, wd, hi⟩, -⟩⟩ := policyWrite_cell ho hne
    · exact hj hidx
    · exact hc w o wd hi

end Sys2Proof

/-! PROOFS, family 20_memory.md: the step of a read and of a write word, what an operation leaves of the random source,
and how offsets select cells and bytes make words. -/

namespace Sys2Proof

open Machine

/-! ### The decoder on accesses inside the file -/

/-- An in-range read is a plain read, but for the tags `RNG` and `WOWARN` (R77). -/
theorem decodeRead_eq_rdPlain {m : Mode} {w : BitVec 4} {o : Word} (h : inRange m w o = true)
    (hrng : policy m (indexOf o) ≠ .rng) (hwo : policy m (indexOf o) ≠ .wowarn) :
    decodeRead m w o = .rdPlain w o := by
  obtain ⟨hadm, hlt⟩ : admitted m.variant w o = true ∧ indexOf o < m.vd.n := by simpa [inRange] using h
  rw [decodeRead, if_pos hadm, if_pos hlt]
  cases hp : policy m (indexOf o) with
  | rng => exact absurd hp hrng
  | wowarn => exact absurd hp hwo
  | key | ro | w1sp | w1s | w1c | plain => rfl

/-- An in-range write of a cell tagged `PLAIN` or `WOWARN` is a plain write (R76). -/
theorem decodeWrite_eq_wrPlain {m : Mode} {w : BitVec 4} {o : Word} (v : Word) (h : inRange m w o = true)
    (hp : policy m (indexOf o) = .plain ∨ policy m (indexOf o) = .wowarn) :
    decodeWrite m w o v = .wrPlain w o v := by
  obtain ⟨hadm, hlt⟩ : admitted m.variant w o = true ∧ indexOf o < m.vd.n := by simpa [inRange] using h
  rw [decodeWrite, if_pos hadm, if_pos hlt]
  rcases hp with hp | hp <;> rw [hp]

end Sys2Proof

namespace Sys2Proof.Machine

/-! ### Steps and runs -/

/-- The step of a read word is the read's row in the device's mode (R51); the `wdata` field is ignored. -/
theorem step_read {s : State} {d : Device} {w : BitVec 4} {o z : Word} {rest : List Request} (hd : s.dev = some d)
    (h : s.pending = .tw (mkTw 0 w o z) :: rest) :
    step s = exec (decodeRead (modeOf s.params d.cfg.variant) w o) (s.setPending rest) := by
  rw [step_of_pending h, State.mode_of_dev hd, decode, decodeTw_mkTw, if_pos rfl]

/-- The step of a write word is the write's row in the device's mode (R51). -/
theorem step_write {s : State} {d : Device} {w : BitVec 4} {o v : Word} {rest : List Request} (hd : s.dev = some d)
    (h : s.pending = .tw (mkTw 1 w o v) :: rest) :
    step s = exec (decodeWrite (modeOf s.params d.cfg.variant) w o v) (s.setPending rest) := by
  rw [step_of_pending h, State.mode_of_dev hd, decode, decodeTw_mkTw, if_neg (by decide), if_pos rfl]

/-- A run goes on from the state its first step gives. -/
theorem run_succ {M : Host.Core} {s t : M.State} (k : Nat) (h : M.step s = .next t) :
    M.run (k + 1) s = M.run k t := by
  rw [Host.Core.run, h]

/-- So does a run of this machine, whose step is `step`. -/
theorem core_run_succ {s t : State} (k : Nat) (h : step s = .next t) :
    Host.Core.run Sys2Proof.core (k + 1) s = Host.Core.run Sys2Proof.core k t :=
  run_succ (M := Sys2Proof.core) k h

/-! ### Plain reads and writes -/

/-- With `LOCK_BLOCKS` false the gate lets every write through (R75). -/
theorem gateOpen_of_lockBlocks_false {vd : Descriptor} (x : RegFile) (o : Word) (h : vd.lockBlocks = false) :
    GateOpen vd x o := fun hb => absurd hb (by simp [h])

/-- A plain write the gate lets through stores the masked value and adds no report to the gate's (R80). -/
theorem exec_wrPlain {s : State} {d : Device} (w : BitVec 4) {o : Word} (v : Word) (hd : s.dev = some d)
    (hg : GateOpen (s.vd d) d.x o) :
    exec (.wrPlain w o v) s = .next ((s.setFile d (RegFile.put d.x (indexOf o) (writeValue w v))).setOut
      { diag := (gateDiag (s.vd d) d.x (indexOf o)).union {} }) :=
  gatedWrite_open hd hg

/-- A plain read answers the masked cell (R90). -/
theorem exec_rdPlain {s : State} {d : Device} (w : BitVec 4) (o : Word) (hd : s.dev = some d) :
    exec (.rdPlain w o) s = .next (s.setOut { rdata := some (readData w (RegFile.cell d.x (indexOf o))) }) :=
  plainRead_some hd

/-- An in-range access addresses a cell the file of a device that meets the invariant has (R10, R71). -/
theorem Device.Inv.indexOf_lt {p : Params} {d : Device} {w : BitVec 4} {o : Word} (h : Device.Inv p d)
    (hin : inRange (modeOf p d.cfg.variant) w o = true) : indexOf o < d.x.length := by
  obtain ⟨-, hfile, -, -⟩ := h
  have hlen : d.x.length = (vdOf p d.cfg.variant).n := beq_iff_eq.1 hfile
  rw [inRange, Bool.and_eq_true, decide_eq_true_eq] at hin
  exact hlen ▸ hin.2

/-- The step of a write word that is a plain write the gate lets through (R76, R80). -/
theorem step_wrPlain {s : State} {d : Device} {w : BitVec 4} {o v : Word} {rest : List Request} (hd : s.dev = some d)
    (h : s.pending = .tw (mkTw 1 w o v) :: rest) (hg : GateOpen (s.vd d) d.x o)
    (hdec : decodeWrite (modeOf s.params d.cfg.variant) w o v = .wrPlain w o v) :
    step s = .next (((s.setPending rest).setFile d (RegFile.put d.x (indexOf o) (writeValue w v))).setOut
      { diag := (gateDiag (s.vd d) d.x (indexOf o)).union {} }) := by
  rw [step_write hd h, hdec]
  exact exec_wrPlain w v hd hg

/-- The step of a read word that is a plain read (R77, R90). -/
theorem step_rdPlain {s : State} {d : Device} {w : BitVec 4} {o z : Word} {rest : List Request} (hd : s.dev = some d)
    (h : s.pending = .tw (mkTw 0 w o z) :: rest)
    (hdec : decodeRead (modeOf s.params d.cfg.variant) w o = .rdPlain w o) :
    step s = .next ((s.setPending rest).setOut
      { rdata := some (readData w (RegFile.cell d.x (indexOf o))) }) := by
  rw [step_read hd h, hdec]
  exact exec_rdPlain w o hd

/-! ### The random source -/

/-- An in-range write takes no word of the random source (R38, R86). -/
theorem rngIn_of_exec_write {s t : State} {i : Instr} {o : Word} (ho : i.writeOffset = some o)
    (h : exec i s = .next t) : t.rngIn = s.rngIn := by
  have hg := exec_write s ho ▸ h
  obtain ⟨d, hd, -⟩ := withDevice_next hg
  obtain ⟨d', ht, -⟩ := exec_write_next hd ho h
  rw [ht]

/-- A construction takes no word of the random source, built or refused (R130). -/
theorem rngIn_of_execConstruct {s t : State} {c : BitVec 2} {rev s1 s2 key : Word}
    (h : execConstruct c rev s1 s2 key s = .next t) : t.rngIn = s.rngIn := by
  unfold execConstruct at h
  split at h
  · cases h; rfl
  · split at h <;> cases h <;> rfl

/-- A row other than the random-data read takes no word of the random source (R38). -/
theorem rngIn_of_exec {s t : State} {i : Instr} (h : exec i s = .next t) (hi : ∀ w o, i ≠ .rdRng w o) :
    t.rngIn = s.rngIn := by
  cases i with
  | rdRng w o => exact absurd rfl (hi w o)
  | construct => exact rngIn_of_execConstruct h
  | wrPlain | wrRo | wrKey | wrW1s | wrW1c | wrW1sp | wrRng => exact rngIn_of_exec_write rfl h
  | reset | pclkqA | pclkqB | rdBuserr | wrBuserr | rdOor | wrOor | rdPlain | rdWowarn | rsvdOp47 | rsvdOp8F =>
    obtain ⟨d, -, ht⟩ := withDevice_next h
    cases ht
    rfl

/-! ### Rows that change no cell -/

/-- The policy of a write that changes no cell leaves the file as it is (R81, R86). -/
theorem policyWrite_x_of_keepsFile {i : Instr} (p : Params) (vd : Descriptor) (x : RegFile)
    (hk : i.keepsFile = true) : (policyWrite p i vd x).x = x := by
  cases i with
  | wrPlain | wrKey | wrW1s | wrW1c | wrW1sp => cases hk
  | _ => rfl

/-- A row that changes no cell keeps the whole device. -/
theorem DevStep.eq_of_keepsFile {s : State} {i : Instr} {e : Option Device} (h : DevStep s i e)
    (hk : i.keepsFile = true) : e = s.dev := by
  cases h with
  | refused | built | reset | random => cases hk
  | written hd _ => rw [policyWrite_x_of_keepsFile _ _ _ hk, hd]
  | kept hd _ => exact hd.symm

/-! ### The low offset bits -/

/-- The gate reads an offset through its index alone (R74). -/
theorem gatedWrite_congr_indexOf {o o' : Word} {f f' : Descriptor → RegFile → Effect} (s : State)
    (ho : indexOf o = indexOf o') (hf : ∀ vd x, f vd x = f' vd x) : gatedWrite o s f = gatedWrite o' s f' := by
  simp only [gatedWrite, ho, hf]

/-- Two writes of one cell whose policies agree do the same. -/
theorem exec_write_congr_indexOf {i i' : Instr} {o o' : Word} (s : State) (hi : i.writeOffset = some o)
    (hi' : i'.writeOffset = some o') (ho : indexOf o = indexOf o')
    (hp : ∀ vd x, policyWrite s.params i vd x = policyWrite s.params i' vd x) : exec i s = exec i' s := by
  rw [exec_write s hi, exec_write s hi', gatedWrite_congr_indexOf s ho hp]

/-- A read without a draw reads an offset through its index alone (R77). -/
theorem plainRead_congr_indexOf {o o' : Word} (w : BitVec 4) (s : State) (g : Diag) (ho : indexOf o = indexOf o') :
    plainRead w o s g = plainRead w o' s g := by
  simp only [plainRead, ho]

/-- So does the random-data read (R91). -/
theorem execRdRng_congr_indexOf {o o' : Word} (w : BitVec 4) (s : State) (ho : indexOf o = indexOf o') :
    execRdRng w o s = execRdRng w o' s := by
  simp only [execRdRng, ho]

/-! ### The fabric's bytes -/

/-- The byte at the lowest address is the value's low byte (R36). -/
theorem leValue_cons_mod (b : Byte) (bs : List Byte) : leValue (b :: bs) % 256 = b.toNat := by
  have hb := b.isLt
  rw [leValue]
  omega

/-- The bytes after the first are the value's higher bytes (R36). -/
theorem leValue_cons_div (b : Byte) (bs : List Byte) : leValue (b :: bs) / 256 = leValue bs := by
  have hb := b.isLt
  rw [leValue]
  omega

/-- A byte sequence comes back from its value (R36). -/
theorem leBytes_leValue (bs : List Byte) : leBytes bs.length (leValue bs) = bs := by
  induction bs with
  | nil => rfl
  | cons b bs ih =>
    have hhead : BitVec.ofNat 8 (leValue (b :: bs)) = b :=
      BitVec.eq_of_toNat_eq (by rw [BitVec.toNat_ofNat, leValue_cons_mod])
    rw [List.length_cons, leBytes, hhead, leValue_cons_div, ih]

end Sys2Proof.Machine

namespace Sys2Proof

open Machine

/-- Settles O34: the write stores the masked value, since the gate is open and the cell is in the file, and the read
answers that cell. -/
theorem plainWriteThenReadReturnsIt : Obligations.PlainWriteThenReadReturnsIt := by
  intro s d w w' o o' v z hinv hd hlb hidx hin hin' hp
  have hwrite := step_wrPlain (s := s.setPending [.tw (mkTw 1 w o v), .tw (mkTw 0 w' o' z)]) hd rfl
    (gateOpen_of_lockBlocks_false d.x o hlb) (decodeWrite_eq_wrPlain v hin (.inl hp))
  have hread := decodeRead_eq_rdPlain hin' (by simp [hidx, hp]) (by simp [hidx, hp])
  refine ⟨_, (core_run_succ 1 hwrite).trans (core_run_succ 0 (step_rdPlain rfl rfl hread)), ?_⟩
  obtain ⟨-, hdev⟩ := hinv
  rw [State.setOut_out, hidx, RegFile.cell_put_self _ _ ((hdev d hd).indexOf_lt hin)]

/-- Settles O39, row by row. -/
theorem onlyTheRandomReadTakesADraw : Obligations.OnlyTheRandomReadTakesADraw :=
  fun _ _ _ h hi => rngIn_of_exec h hi

/-- Settles O53: what such a row may do to the device is to keep it, and it is no random-data read. -/
theorem frameOfRowsThatKeepTheFile : Obligations.FrameOfRowsThatKeepTheFile := by
  intro s t i hk h
  obtain ⟨hparams, hpending, hdev⟩ := exec_answers h
  exact ⟨hdev.eq_of_keepsFile hk, hparams, hpending, rngIn_of_exec h (by rintro w o rfl; cases hk)⟩

/-- Settles O60, by induction on the bytes. -/
theorem fabricIsLittleEndian : Obligations.FabricIsLittleEndian :=
  fun bs => ⟨leBytes_leValue bs, fun b => leValue_cons_mod b bs⟩

/-- Settles O22: the offsets have one index, through which alone the reads, the gate and the policies see them. -/
theorem lowOffsetBitsSelectNothing : Obligations.LowOffsetBitsSelectNothing := by
  intro s w o o' wd h
  have ho : indexOf o = indexOf o' := by rw [indexOf_eq, indexOf_eq, h]
  have hwrite {i i' : Instr} (hi : i.writeOffset = some o) (hi' : i'.writeOffset = some o') :=
    exec_write_congr_indexOf s hi hi' ho
  refine ⟨plainRead_congr_indexOf w s _ ho, execRdRng_congr_indexOf w s ho, plainRead_congr_indexOf w s _ ho,
    hwrite rfl rfl fun vd x => ?plain, hwrite rfl rfl fun vd x => rfl, hwrite rfl rfl fun vd x => ?key,
    hwrite rfl rfl fun vd x => ?set, hwrite rfl rfl fun vd x => ?clear, hwrite rfl rfl fun vd x => ?strap,
    hwrite rfl rfl fun vd x => rfl⟩
  case plain => simp only [policyWrite, plainPolicy, ho]
  case key => simp only [policyWrite, keyPolicy, ho]
  case set => simp only [policyWrite, setPolicy, ho]
  case clear => simp only [policyWrite, clearPolicy, ho]
  case strap => simp only [policyWrite, strapPolicy, ho]

end Sys2Proof

/-! PROOFS, family 30_encoding.md: the fields of the boundary words, the row each encoding comes back to, the policy tag
as the class of a cell, the reserved encodings, and the words of the pseudo-operations. -/

namespace Sys2Proof

open Machine

/-! ### The fields of the boundary words -/

/-- A bit field of a word, read off the word's number. -/
theorem extract_eq_ofNat {k : Nat} (x : BitVec k) (lo n : Nat) :
    x.extractLsb' lo n = BitVec.ofNat n (x.toNat / 2 ^ lo) :=
  BitVec.eq_of_toNat_eq (by rw [extract_toNat, BitVec.toNat_ofNat])

/-- The `op` code is what the number has above bit 68 (R51). -/
theorem twOp_toNat (w : BitVec 72) : (twOp w).toNat = w.toNat / 2 ^ 68 := by
  have hw := w.isLt
  rw [twOp, extract_toNat]
  omega

/-- The row of a transaction word, read off the number it is (R51, R56). -/
theorem decodeTw_eq (m : Mode) (w : BitVec 72) : decodeTw m w =
    if w.toNat / 2 ^ 68 = 0 then
      decodeRead m (BitVec.ofNat 4 (w.toNat / 2 ^ 64)) (BitVec.ofNat 32 (w.toNat / 2 ^ 32))
    else if w.toNat / 2 ^ 68 = 1 then
      decodeWrite m (BitVec.ofNat 4 (w.toNat / 2 ^ 64)) (BitVec.ofNat 32 (w.toNat / 2 ^ 32)) (BitVec.ofNat 32 w.toNat)
    else if w.toNat / 2 ^ 68 = 2 then .reset
    else if w.toNat / 2 ^ 68 = 3 then decodeQuery m
    else if w.toNat / 2 ^ 68 < 8 then .rsvdOp47 (BitVec.ofNat 2 (w.toNat / 2 ^ 68))
    else .rsvdOp8F (BitVec.ofNat 3 (w.toNat / 2 ^ 68)) := by
  have hwdata : twWdata w = BitVec.ofNat 32 w.toNat := by rw [twWdata, extract_eq_ofNat, Nat.pow_zero, Nat.div_one]
  simp only [decodeTw, ← BitVec.toNat_inj, BitVec.lt_def, twOp_toNat, hwdata, twWidth, twOffset, extract_eq_ofNat]
  rfl

/-- The construction of a configuration word, read off the number it is (R53). -/
theorem decodeCfg_eq (w : BitVec 130) : decodeCfg w
    = .construct (BitVec.ofNat 2 (w.toNat / 2 ^ 128)) (BitVec.ofNat 32 (w.toNat / 2 ^ 96))
        (BitVec.ofNat 32 (w.toNat / 2 ^ 64)) (BitVec.ofNat 32 (w.toNat / 2 ^ 32)) (BitVec.ofNat 32 w.toNat) := by
  simp only [decodeCfg, extract_eq_ofNat, Nat.pow_zero, Nat.div_one]

/-- A configuration word made of five fields is the construction with these fields (R53). -/
theorem decodeCfg_mkCfg (c : BitVec 2) (rev s1 s2 key : Word) :
    decodeCfg (mkCfg c rev s1 s2 key) = .construct c rev s1 s2 key := by
  have hc := c.isLt
  have hrev := rev.isLt
  have hs1 := s1.isLt
  have hs2 := s2.isLt
  have hkey := key.isLt
  rw [decodeCfg, Instr.construct.injEq]
  refine ⟨?_, ?_, ?_, ?_, ?_⟩ <;>
    · apply BitVec.eq_of_toNat_eq
      rw [extract_toNat, mkCfg_toNat]
      omega

/-! ### The row of each encoding -/

/-- Width and offset of the rows of a read. -/
def Instr.readOperands : Instr → Option (BitVec 4 × Word)
  | .rdBuserr w o => some (w, o)
  | .rdOor w o => some (w, o)
  | .rdPlain w o => some (w, o)
  | .rdRng w o => some (w, o)
  | .rdWowarn w o => some (w, o)
  | _ => none

/-- Width, offset and data of the rows of a write. -/
def Instr.writeOperands : Instr → Option (BitVec 4 × Word × Word)
  | .wrBuserr w o d => some (w, o, d)
  | .wrOor w o d => some (w, o, d)
  | .wrPlain w o d => some (w, o, d)
  | .wrRo w o d => some (w, o, d)
  | .wrKey w o d => some (w, o, d)
  | .wrW1s w o d => some (w, o, d)
  | .wrW1c w o d => some (w, o, d)
  | .wrW1sp w o d => some (w, o, d)
  | .wrRng w o d => some (w, o, d)
  | _ => none

/-- A read's word has `op` code 0 and no data (R51). -/
theorem encode_of_readOperands {i : Instr} {w : BitVec 4} {o : Word} (h : i.readOperands = some (w, o)) :
    encode i = .tw (mkTw 0 w o 0) := by
  cases i <;> cases h <;> rfl

/-- A write's word has `op` code 1 (R51). -/
theorem encode_of_writeOperands {i : Instr} {w : BitVec 4} {o d : Word} (h : i.writeOperands = some (w, o, d)) :
    encode i = .tw (mkTw 1 w o d) := by
  cases i <;> cases h <;> rfl

/-- The select condition of a row with one policy tag. -/
theorem selects_singleton {m : Mode} {w : BitVec 4} {o : Word} {t : Policy} :
    selects m w o [t] = true ↔
      admitted m.variant w o = true ∧ indexOf o < m.vd.n ∧ policy m (indexOf o) = t := by
  simp [selects, inRange, and_assoc]

/-- The select condition of an out-of-range row (R72, R73). -/
theorem admitted_and_outside {m : Mode} {w : BitVec 4} {o : Word} :
    (admitted m.variant w o && decide (m.vd.n ≤ indexOf o)) = true ↔
      admitted m.variant w o = true ∧ ¬ indexOf o < m.vd.n := by
  simp

/-- The decoder takes the operands of a read of the mode back to its row. -/
theorem decodeRead_of_wellFormed {m : Mode} {i : Instr} {w : BitVec 4} {o : Word}
    (ho : i.readOperands = some (w, o)) (hi : i.WellFormed m) : decodeRead m w o = i := by
  cases i with
  | rdBuserr =>
    cases ho
    rw [decodeRead, if_neg (by simpa [Instr.WellFormed, Instr.wf] using hi)]
  | rdOor =>
    cases ho
    obtain ⟨hadm, hout⟩ := admitted_and_outside.1 hi
    rw [decodeRead, if_pos hadm, if_neg hout]
  | rdPlain =>
    cases ho
    obtain ⟨hin, htag⟩ := (selects_iff ..).1 hi
    exact decodeRead_eq_rdPlain hin (fun e => by simp [e] at htag) (fun e => by simp [e] at htag)
  | rdRng | rdWowarn =>
    cases ho
    obtain ⟨hadm, hlt, htag⟩ := selects_singleton.1 hi
    rw [decodeRead, if_pos hadm, if_pos hlt, htag]
  | _ => cases ho

/-- The decoder takes the operands of a write of the mode back to its row. -/
theorem decodeWrite_of_wellFormed {m : Mode} {i : Instr} {w : BitVec 4} {o d : Word}
    (ho : i.writeOperands = some (w, o, d)) (hi : i.WellFormed m) : decodeWrite m w o d = i := by
  cases i with
  | wrBuserr =>
    cases ho
    rw [decodeWrite, if_neg (by simpa [Instr.WellFormed, Instr.wf] using hi)]
  | wrOor =>
    cases ho
    obtain ⟨hadm, hout⟩ := admitted_and_outside.1 hi
    rw [decodeWrite, if_pos hadm, if_neg hout]
  | wrPlain =>
    cases ho
    obtain ⟨hin, htag⟩ := (selects_iff ..).1 hi
    exact decodeWrite_eq_wrPlain _ hin (by simpa using htag)
  | wrRo | wrKey | wrW1s | wrW1c | wrW1sp | wrRng =>
    cases ho
    obtain ⟨hadm, hlt, htag⟩ := selects_singleton.1 hi
    rw [decodeWrite, if_pos hadm, if_pos hlt, htag]
  | _ => cases ho

/-- A read of the mode comes back from its word. -/
theorem decode_encode_of_readOperands {m : Mode} {i : Instr} {w : BitVec 4} {o : Word}
    (ho : i.readOperands = some (w, o)) (hi : i.WellFormed m) : decode (some m) (encode i) = .ok i := by
  rw [encode_of_readOperands ho, decode, decodeTw_mkTw, if_pos rfl, decodeRead_of_wellFormed ho hi]

/-- A write of the mode comes back from its word. -/
theorem decode_encode_of_writeOperands {m : Mode} {i : Instr} {w : BitVec 4} {o d : Word}
    (ho : i.writeOperands = some (w, o, d)) (hi : i.WellFormed m) : decode (some m) (encode i) = .ok i := by
  rw [encode_of_writeOperands ho, decode, decodeTw_mkTw, if_neg (by decide), if_pos rfl,
    decodeWrite_of_wellFormed ho hi]

/-- The query word is the query of the mode's algorithm (R99, R100). -/
theorem decodeTw_query (m : Mode) : decodeTw m (mkTw 3 0 0 0) = decodeQuery m := by
  rw [decodeTw_mkTw]
  rfl

/-- A word of the first reserved row comes back (R56). -/
theorem decodeTw_rsvdOp47 (m : Mode) (r : BitVec 2) :
    decodeTw m (mkTw ((1 : BitVec 2) ++ r) 0 0 0) = .rsvdOp47 r := by
  have hop : ∀ r : BitVec 2, (1 : BitVec 2) ++ r ≠ (0 : BitVec 4) ∧ (1 : BitVec 2) ++ r ≠ (1 : BitVec 4)
      ∧ (1 : BitVec 2) ++ r ≠ (2 : BitVec 4) ∧ (1 : BitVec 2) ++ r ≠ (3 : BitVec 4)
      ∧ (1 : BitVec 2) ++ r < (8 : BitVec 4) ∧ ((1 : BitVec 2) ++ r).extractLsb' 0 2 = r := by decide
  obtain ⟨h0, h1, h2, h3, hlt, hr⟩ := hop r
  rw [decodeTw_mkTw, if_neg h0, if_neg h1, if_neg h2, if_neg h3, if_pos hlt, hr]

/-- A word of the second reserved row comes back (R56). -/
theorem decodeTw_rsvdOp8F (m : Mode) (r : BitVec 3) :
    decodeTw m (mkTw ((1 : BitVec 1) ++ r) 0 0 0) = .rsvdOp8F r := by
  have hop : ∀ r : BitVec 3, (1 : BitVec 1) ++ r ≠ (0 : BitVec 4) ∧ (1 : BitVec 1) ++ r ≠ (1 : BitVec 4)
      ∧ (1 : BitVec 1) ++ r ≠ (2 : BitVec 4) ∧ (1 : BitVec 1) ++ r ≠ (3 : BitVec 4)
      ∧ ¬ (1 : BitVec 1) ++ r < (8 : BitVec 4) ∧ ((1 : BitVec 1) ++ r).extractLsb' 0 3 = r := by decide
  obtain ⟨h0, h1, h2, h3, hge, hr⟩ := hop r
  rw [decodeTw_mkTw, if_neg h0, if_neg h1, if_neg h2, if_neg h3, if_neg hge, hr]

/-- Settles O1: by the row, the fields come back, and an access comes back as the row whose select condition it
meets. -/
theorem decodeOfEncodeIsTheOperation : Obligations.DecodeOfEncodeIsTheOperation := by
  refine ⟨fun m i hi => ?_, fun c rev s1 s2 key => congrArg _ (decodeCfg_mkCfg c rev s1 s2 key)⟩
  cases i with
  | construct c rev s1 s2 key => exact congrArg _ (decodeCfg_mkCfg c rev s1 s2 key)
  | reset => exact congrArg _ (decodeTw_mkTw m 2 0 0 0)
  | pclkqA | pclkqB => rw [encode, decode, decodeTw_query, decodeQuery, beq_iff_eq.1 hi]
  | rdBuserr | rdOor | rdPlain | rdRng | rdWowarn => exact decode_encode_of_readOperands rfl hi
  | wrBuserr | wrOor | wrPlain | wrRo | wrKey | wrW1s | wrW1c | wrW1sp | wrRng =>
    exact decode_encode_of_writeOperands rfl hi
  | rsvdOp47 r => exact congrArg _ (decodeTw_rsvdOp47 m r)
  | rsvdOp8F r => exact congrArg _ (decodeTw_rsvdOp8F m r)

/-- Settles O3: each range of the `op` code picks its branch of `decodeTw_eq`. -/
theorem transactionWordFields : Obligations.TransactionWordFields := by
  intro m w
  simp only [decode, decodeTw_eq, Except.ok.injEq]
  refine ⟨fun h => if_pos h, fun h => ?write, fun h => ?reset, fun h => ?query, fun h4 h8 => ?low, fun h8 => ?high,
    by decide, by decide, by decide⟩
  case write => rw [if_neg, if_pos h]; omega
  case reset => rw [if_neg, if_neg, if_pos h] <;> omega
  case query => rw [if_neg, if_neg, if_neg, if_pos h] <;> omega
  case low => rw [if_neg, if_neg, if_neg, if_neg, if_pos h8] <;> omega
  case high => rw [if_neg, if_neg, if_neg, if_neg, if_neg] <;> omega

/-- Settles O4: the fields by number, and no variant has code 3. -/
theorem configurationWordFields : Obligations.ConfigurationWordFields :=
  ⟨fun m w => by cases m <;> exact congrArg _ (decodeCfg_eq w), rfl, rfl, rfl,
    fun _ _ _ _ _ => ⟨_, rfl, rfl, rfl⟩⟩

/-- Settles O5: the decoder evaluates each word. -/
theorem wordsOfTheVectorsDecode : Obligations.WordsOfTheVectorsDecode := by
  unfold Obligations.WordsOfTheVectorsDecode
  decide +kernel

end Sys2Proof

namespace Sys2Proof.Machine

/-! ### The reserved encodings -/

/-- A reserved row on a device answers `ERR` (R56). -/
theorem exec_rsvdOp47 {s : State} {d : Device} (r : BitVec 2) (hd : s.dev = some d) :
    exec (.rsvdOp47 r) s = respondErr s := withDevice_some hd

/-- So does the other reserved row (R56). -/
theorem exec_rsvdOp8F {s : State} {d : Device} (r : BitVec 3) (hd : s.dev = some d) :
    exec (.rsvdOp8F r) s = respondErr s := withDevice_some hd

/-- The step of a transaction word with an `op` code from 4 up answers `ERR` (R56). -/
theorem step_reserved {s : State} {d : Device} {w : BitVec 72} {rest : List Request} (hd : s.dev = some d)
    (h : s.pending = .tw w :: rest) (hop : 4 ≤ w.toNat / 2 ^ 68) : step s = respondErr (s.setPending rest) := by
  rw [step_of_pending h, State.mode_of_dev hd]
  obtain ⟨-, -, -, -, hlow, hhigh, -⟩ := transactionWordFields (modeOf s.params d.cfg.variant) w
  by_cases h8 : w.toNat / 2 ^ 68 < 8
  · rw [hlow hop h8]
    exact exec_rsvdOp47 (s := s.setPending rest) _ hd
  · rw [hhigh (not_lt.1 h8)]
    exact exec_rsvdOp8F (s := s.setPending rest) _ hd

/-- The step of a configuration word with variant code 3 raises `CfgError` (R56, R116). -/
theorem step_cfg_reserved {s : State} {w : BitVec 130} {rest : List Request} (h : s.pending = .cfg w :: rest)
    (hcode : w.toNat / 2 ^ 128 = 3) : step s = raiseCfgError (s.setPending rest) := by
  obtain ⟨hdec, -⟩ := configurationWordFields
  rw [step_of_pending h, hdec, hcode]
  rfl

/-! ### The policy tag is a class -/

/-- Cell `i` is a member of the class that R58 gives the tag; `PLAIN` is the class of what no other names. -/
def InClass (m : Mode) (i : Nat) : Policy → Prop
  | .key => i = m.vd.k
  | .ro => i ∈ m.vd.roSet
  | .rng => i = m.vd.rngData
  | .wowarn => i ∈ m.vd.woWarnSet
  | .w1sp => m.variant = .new ∧ (i = m.vd.strap1 ∨ i = m.vd.strap2)
  | .w1s => m.variant = .new ∧ i ∈ m.vd.w1sSet
  | .w1c => m.variant = .new ∧ i ∈ m.vd.clrOf.map Prod.fst
  | .plain => i ≠ m.vd.k ∧ i ∉ m.vd.roSet ∧ i ≠ m.vd.rngData ∧ i ∉ m.vd.woWarnSet
      ∧ (m.variant = .new → i ≠ m.vd.strap1 ∧ i ≠ m.vd.strap2 ∧ i ∉ m.vd.w1sSet ∧ i ∉ m.vd.clrOf.map Prod.fst)

/-- A cell is a member of the class of its tag, in any record: a line of R58 applies to the members of its class. -/
theorem inClass_policy (m : Mode) (i : Nat) : InClass m i (policy m i) := by
  have hclr : (clrTarget m.vd i).isSome = true ↔ i ∈ m.vd.clrOf.map Prod.fst := lookup_isSome_iff _ _
  simp only [policy, hclr]
  split_ifs with hk hro hrng hwo hw1sp hw1s hw1c
  · exact hk
  · exact hro
  · exact hrng
  · exact hwo
  · exact hw1sp
  · exact hw1s
  · exact hw1c
  · refine ⟨hk, hro, hrng, hwo, fun hv => ?_⟩
    simpa only [hv, true_and, not_or, and_assoc] using And.intro hw1sp (And.intro hw1s hw1c)

/-- In a record R7 admits no earlier line of R58 takes a member of a class away from it. -/
theorem policy_of_inClass {v : Variant} {vd : Descriptor} (hwf : vd.wf v = true) {i : Nat} {t : Policy}
    (h : InClass ⟨v, vd⟩ i t) : policy ⟨v, vd⟩ i = t := by
  obtain ⟨-, hcls, -⟩ := Descriptor.wf_clauses hwf
  obtain ⟨⟨hkro, hkrng, hkwo, hkw1s, -⟩, hro, ⟨hrngwo, hrngw1s, -⟩, hwo, -, hstrap⟩ := wfClasses_apart hcls
  have rng_ro : vd.rngData ∉ vd.roSet := fun hm => (hro _ hm).1 rfl
  cases t with
  | key => exact if_pos h
  | ro =>
    have hk : i ≠ vd.k := fun e => hkro (e ▸ h)
    exact (if_neg hk).trans (if_pos h)
  | rng =>
    obtain rfl : i = vd.rngData := h
    simp [policy, hkrng.symm, rng_ro]
  | wowarn =>
    have hmem : i ∈ vd.woWarnSet := h
    have hk : i ≠ vd.k := fun e => hkwo (e ▸ hmem)
    have hnro : i ∉ vd.roSet := fun hm => (hro i hm).2.1 hmem
    have hrng : i ≠ vd.rngData := fun e => hrngwo (e ▸ hmem)
    simp [policy, hk, hnro, hrng, hmem]
  | w1sp =>
    obtain ⟨hv, hs⟩ : v = .new ∧ (i = vd.strap1 ∨ i = vd.strap2) := h
    obtain ⟨hk, hnro, hrng, hnwo, -, -⟩ := hstrap hv i hs
    simp [policy, hk, hnro, hrng, hnwo, hv, hs]
  | w1s =>
    obtain ⟨hv, hmem⟩ : v = .new ∧ i ∈ vd.w1sSet := h
    have hk : i ≠ vd.k := fun e => hkw1s (e ▸ hmem)
    have hnro : i ∉ vd.roSet := fun hm => (hro i hm).2.2.1 hmem
    have hrng : i ≠ vd.rngData := fun e => hrngw1s (e ▸ hmem)
    have hnwo : i ∉ vd.woWarnSet := fun hm => (hwo i hm).1 hmem
    have hs : ¬ (i = vd.strap1 ∨ i = vd.strap2) := fun hs => by
      obtain ⟨-, -, -, -, hw1s, -⟩ := hstrap hv i hs
      exact hw1s hmem
    simp [policy, hk, hnro, hrng, hnwo, hv, hs, hmem]
  | w1c =>
    obtain ⟨-, hmem⟩ : v = .new ∧ i ∈ vd.clrOf.map Prod.fst := h
    obtain ⟨-, -, hnro, -⟩ := clearCell_apart hwf hmem
    refine (policy_of_fixedCell hwf (.inr hmem)).resolve_left fun e => ?_
    have hmem_ro : InClass ⟨v, vd⟩ i .ro := e ▸ inClass_policy ⟨v, vd⟩ i
    exact hnro hmem_ro
  | plain =>
    obtain ⟨hk, hnro, hrng, hnwo, hnew⟩ := h
    have hclr : (clrTarget vd i).isSome = true ↔ i ∈ vd.clrOf.map Prod.fst := lookup_isSome_iff _ _
    by_cases hv : v = .new
    · obtain ⟨hs1, hs2, hw1s, hw1c⟩ := hnew hv
      simp only [policy, hclr, hk, hnro, hrng, hnwo, hs1, hs2, hw1s, hw1c, or_self, and_false, if_false]
    · simp [policy, hk, hnro, hrng, hnwo, hv]

/-- In a record R7 admits a cell's tag is the class it is a member of. -/
theorem policy_eq_iff_inClass {v : Variant} {vd : Descriptor} (hwf : vd.wf v = true) (i : Nat) (t : Policy) :
    policy ⟨v, vd⟩ i = t ↔ InClass ⟨v, vd⟩ i t :=
  ⟨fun h => h ▸ inClass_policy ⟨v, vd⟩ i, policy_of_inClass hwf⟩

/-! ### The width mask -/

/-- Masking to a width takes the word modulo the width (R57). -/
theorem toNat_and_mask (w : BitVec 4) (v : Word) : (v &&& mask w).toNat = v.toNat % 2 ^ (8 * w.toNat) := by
  have hv : v.toNat % 2 ^ (8 * w.toNat) < 2 ^ 32 := (Nat.mod_le _ _).trans_lt v.isLt
  have hand : v &&& mask w = BitVec.ofNat 32 (v.toNat &&& (2 ^ (8 * w.toNat) - 1)) := by
    rw [BitVec.ofNat_and, BitVec.ofNat_toNat, BitVec.setWidth_eq, mask]
  rw [hand, Nat.and_two_pow_sub_one_eq_mod, BitVec.toNat_ofNat, Nat.mod_eq_of_lt hv]

/-- A write of width 4 writes the whole word (R57). -/
theorem writeValue_four (v : Word) : writeValue 4 v = v :=
  BitVec.eq_of_toNat_eq ((toNat_and_mask 4 v).trans (Nat.mod_eq_of_lt v.isLt))

/-! ### The words of the pseudo-operations -/

/-- The index of a cell's offset is the cell, where the offset fits 32 bits (R71). -/
theorem indexOf_ofNat {i : Nat} (h : 4 * i < 2 ^ 32) : indexOf (BitVec.ofNat 32 (4 * i)) = i := by
  rw [indexOf_eq, BitVec.toNat_ofNat, Nat.mod_eq_of_lt h, Nat.mul_div_cancel_left i (by decide)]

/-- A cell's offset is admitted with width 4 on every variant (R55, R70). -/
theorem admitted_four_ofNat (v : Variant) (i : Nat) : admitted v 4 (BitVec.ofNat 32 (4 * i)) = true := by
  have halign : (BitVec.ofNat 32 (4 * i)).extractLsb' 0 2 = 0 := by
    apply BitVec.eq_of_toNat_eq
    simp only [extract_toNat, BitVec.toNat_ofNat, BitVec.ofNat_eq_ofNat]
    omega
  cases v <;> simp [admitted, halign]

/-- The step of a whole-word write to the key cell of a device that meets the invariant: the gate does not guard the
key cell, which becomes 1 for the unlock constant and 0 for any other word (R16, R82). -/
theorem step_writeKeyCell {s : State} {d : Device} {rest : List Request} {v : Word} (hs : s.Inv)
    (hd : s.dev = some d) (hfit : 4 * (s.vd d).k < 2 ^ 32)
    (hpend : s.pending = writeCellWord (s.vd d).k v :: rest) :
    ∃ t d', step s = .next t ∧ t.dev = some d'
      ∧ RegFile.cell d'.x (s.vd d).k = if v = s.params.unlockConst then 1 else 0 := by
  obtain ⟨hwf, hdev⟩ := hs
  obtain ⟨hindexes, -⟩ := Descriptor.wf_clauses (Params.wf_vdOf hwf d.cfg.variant)
  obtain ⟨hk, -⟩ := wfIndexes_lt hindexes
  have ho := indexOf_ofNat hfit
  have hrow : (Instr.wrKey 4 (BitVec.ofNat 32 (4 * (s.vd d).k)) v).WellFormed (modeOf s.params d.cfg.variant) :=
    selects_singleton.2 ⟨admitted_four_ofNat _ _, ho.symm ▸ hk, ho.symm ▸ if_pos rfl⟩
  have hgate : GateOpen (s.vd d) d.x (BitVec.ofNat 32 (4 * (s.vd d).k)) :=
    fun _ ⟨hlt, _⟩ => lt_irrefl _ (ho ▸ hlt)
  have hlen : (s.vd d).k < d.x.length := by
    obtain ⟨-, hfile, -⟩ := hdev d hd
    exact hk.trans_eq (beq_iff_eq.1 hfile).symm
  have hcell : RegFile.cell (keyPolicy s.params.unlockConst 4 (BitVec.ofNat 32 (4 * (s.vd d).k)) v (s.vd d) d.x).x
      (s.vd d).k = if v = s.params.unlockConst then 1 else 0 := by
    rw [keyPolicy, ho, RegFile.cell_put_self _ _ hlen, writeValue_four]
  rw [step_write hd hpend, decodeWrite_of_wellFormed rfl hrow]
  exact ⟨_, _, gatedWrite_open (s := s.setPending rest) hd hgate, rfl, hcell⟩

end Sys2Proof.Machine

namespace Sys2Proof

open Machine

/-- Settles O6, by the step of each reserved encoding. -/
theorem reservedEncodingsAreRefused : Obligations.ReservedEncodingsAreRefused :=
  ⟨fun _ _ _ _ hd hpend hop => ⟨_, step_reserved hd hpend hop, rfl, rfl, hd, rfl, rfl, rfl⟩,
    fun _ _ _ hpend hcode => ⟨_, step_cfg_reserved hpend hcode, rfl, rfl⟩⟩

/-- Settles O7: in a record R7 admits, tag and class are one. -/
theorem policyIsTheClassThatNamesTheCell : Obligations.PolicyIsTheClassThatNamesTheCell := by
  intro p v hwf i
  have htag := policy_eq_iff_inClass (Params.wf_vdOf hwf v) i
  exact ⟨htag .key, htag .ro, htag .rng, htag .wowarn, htag .w1sp, htag .w1s, htag .w1c, htag .plain⟩

/-- Settles O17: both rows answer as a boundary rejection does. -/
theorem reservedRowsAnswerErr : Obligations.ReservedRowsAnswerErr :=
  fun _ _ r r' hd => ⟨exec_rsvdOp47 r hd, exec_rsvdOp8F r' hd⟩

/-- Settles O21: write value and read data are one masking. -/
theorem operandsAreMaskedToTheWidth : Obligations.OperandsAreMaskedToTheWidth :=
  fun w v => ⟨toNat_and_mask w v, toNat_and_mask w v⟩

/-- Settles O58: the word of UNLOCK writes the unlock constant to the key cell, the word of LOCK writes 0. -/
theorem unlockAndLockWords : Obligations.UnlockAndLockWords := by
  intro s d hs hd hfit
  refine ⟨?unlock, fun hne => ?lock⟩
  case unlock =>
    obtain ⟨t, d', hstep, hd', hcell⟩ :=
      step_writeKeyCell (s := s.setPending [unlockWord s.params d.cfg.variant]) hs hd hfit rfl
    have hone : RegFile.cell d'.x (s.vd d).k = 1 := hcell.trans (if_pos rfl)
    exact ⟨t, d', hstep, hd', hone, by rw [isLocked, hone]; rfl⟩
  case lock =>
    obtain ⟨t, d', hstep, hd', hcell⟩ :=
      step_writeKeyCell (s := s.setPending [lockWord s.params d.cfg.variant]) hs hd hfit rfl
    have hzero : RegFile.cell d'.x (s.vd d).k = 0 := hcell.trans (if_neg hne.symm)
    exact ⟨t, d', hstep, hd', hzero, by rw [isLocked, hzero]; rfl⟩

/-- Settles O59: the pair found has target `t`, and as no clear cell is listed twice it is the one its cell has. -/
theorem clrBitsWordAddressesTheClearCell : Obligations.ClrBitsWordAddressesTheClearCell := by
  intro p v t m r hwf hword
  obtain ⟨⟨c, t'⟩, hfind, rfl⟩ := Option.map_eq_some_iff.1 hword
  obtain rfl : t' = t := by simpa using List.find?_some hfind
  obtain ⟨-, -, hpairs, -⟩ := Descriptor.wf_clauses (Params.wf_vdOf hwf v)
  obtain ⟨-, hnodup, -⟩ := wfPairs_clr hpairs
  exact ⟨c, lookup_of_mem hnodup (List.mem_of_find?_eq_some hfind), rfl⟩

end Sys2Proof

/-! PROOFS, family 40_dispatch.md: the row of an access is the one whose select condition it meets, every operation on a
device is answered, and what the lock gate reports on a write. -/

namespace Sys2Proof

open Machine

/-! ### One row a word -/

/-- In a mode every boundary word is an operation (R61). -/
theorem exists_decode (m : Mode) (r : Request) : ∃ i, decode (some m) r = .ok i := by
  cases r with
  | tw w => exact ⟨decodeTw m w, rfl⟩
  | cfg w => exact ⟨decodeCfg w, rfl⟩

/-- Two operations of a mode with one canonical word are one operation: the word decodes to both. -/
theorem eq_of_encode_eq {m : Mode} {i j : Instr} (hi : i.WellFormed m) (hj : j.WellFormed m)
    (h : encode j = encode i) : j = i := by
  have hdec := (decodeOfEncodeIsTheOperation.1 m j hj).symm.trans (h ▸ decodeOfEncodeIsTheOperation.1 m i hi)
  exact Except.ok.inj hdec

/-- A read decodes to a row of its operands exactly where it meets the row's select condition. -/
theorem decodeRead_eq_iff {m : Mode} {i : Instr} {w : BitVec 4} {o : Word} (ho : i.readOperands = some (w, o)) :
    decodeRead m w o = i ↔ i.WellFormed m :=
  ⟨fun h => h ▸ decodeRead_wellFormed m w o, decodeRead_of_wellFormed ho⟩

/-- A write decodes to a row of its operands exactly where it meets the row's select condition. -/
theorem decodeWrite_eq_iff {m : Mode} {i : Instr} {w : BitVec 4} {o d : Word}
    (ho : i.writeOperands = some (w, o, d)) : decodeWrite m w o d = i ↔ i.WellFormed m :=
  ⟨fun h => h ▸ decodeWrite_wellFormed m w o d, decodeWrite_of_wellFormed ho⟩

/-- A read is rejected exactly where it is not admitted (R70). -/
theorem decodeRead_eq_rdBuserr_iff (m : Mode) (w : BitVec 4) (o : Word) :
    decodeRead m w o = .rdBuserr w o ↔ ¬ admitted m.variant w o = true := by
  rw [decodeRead_eq_iff rfl, Instr.WellFormed, Instr.wf, Bool.not_eq_true', Bool.not_eq_true]

/-- A write is rejected exactly where it is not admitted (R70). -/
theorem decodeWrite_eq_wrBuserr_iff (m : Mode) (w : BitVec 4) (o d : Word) :
    decodeWrite m w o d = .wrBuserr w o d ↔ ¬ admitted m.variant w o = true := by
  rw [decodeWrite_eq_iff rfl, Instr.WellFormed, Instr.wf, Bool.not_eq_true', Bool.not_eq_true]

/-- The out-of-range row of a read is that of the admitted reads beyond the file (R71, R72). -/
theorem decodeRead_eq_rdOor_iff (m : Mode) (w : BitVec 4) (o : Word) :
    decodeRead m w o = .rdOor w o ↔ admitted m.variant w o = true ∧ m.vd.n ≤ o.toNat / 4 := by
  rw [decodeRead_eq_iff rfl, Instr.WellFormed, Instr.wf, Bool.and_eq_true, decide_eq_true_eq, indexOf_eq]

/-- The out-of-range row of a write is that of the admitted writes beyond the file (R71, R73). -/
theorem decodeWrite_eq_wrOor_iff (m : Mode) (w : BitVec 4) (o d : Word) :
    decodeWrite m w o d = .wrOor w o d ↔ admitted m.variant w o = true ∧ m.vd.n ≤ o.toNat / 4 := by
  rw [decodeWrite_eq_iff rfl, Instr.WellFormed, Instr.wf, Bool.and_eq_true, decide_eq_true_eq, indexOf_eq]

/-! ### The access boundary in numbers -/

/-- The widths `V_OLD` admits are 1 to 4 (R33, R55). -/
theorem admitted_old_iff (w : BitVec 4) (o : Word) :
    admitted .old w o = true ↔ 1 ≤ w.toNat ∧ w.toNat ≤ 4 := by
  simp only [admitted, Bool.or_eq_true, beq_iff_eq, ← BitVec.toNat_inj, BitVec.reduceToNat]
  omega

/-- `V_MID` and `V_NEW` admit width 4 at a multiple of 4 (R33, R55). -/
theorem aligned_word_iff (w : BitVec 4) (o : Word) :
    (w == 4 && o.extractLsb' 0 2 == 0) = true ↔ w.toNat = 4 ∧ o.toNat % 4 = 0 := by
  simp [← BitVec.toNat_inj]

/-- Which accesses the boundary admits, width and offset as numbers (R70). -/
theorem admitted_iff (v : Variant) (w : BitVec 4) (o : Word) : admitted v w o = true ↔
    if v = .old then 1 ≤ w.toNat ∧ w.toNat ≤ 4 else w.toNat = 4 ∧ o.toNat % 4 = 0 := by
  cases v with
  | old => exact admitted_old_iff w o
  | mid | new => exact aligned_word_iff w o

end Sys2Proof

namespace Sys2Proof.Machine

/-! ### Every operation on a device is answered -/

/-- A construction is answered, built or refused (R116, R130). -/
theorem exists_next_execConstruct (c : BitVec 2) (rev s1 s2 key : Word) (s : State) :
    ∃ t, execConstruct c rev s1 s2 key s = .next t := by
  unfold execConstruct
  split
  · exact ⟨_, rfl⟩
  · split <;> exact ⟨_, rfl⟩

/-- An in-range write to a device is answered, whatever the gate says (R76). -/
theorem exists_next_exec_write {s : State} {d : Device} {i : Instr} {o : Word} (hd : s.dev = some d)
    (ho : i.writeOffset = some o) : ∃ t, exec i s = .next t := by
  rw [exec_write s ho]
  obtain ⟨-, -, h⟩ | ⟨-, h⟩ := gatedWrite_cases o (policyWrite s.params i) hd <;> exact ⟨_, h⟩

/-- With a device no operation stops (R78, R117). -/
theorem exists_next_exec {s : State} {d : Device} (i : Instr) (hd : s.dev = some d) : ∃ t, exec i s = .next t := by
  cases i with
  | construct c rev s1 s2 key => exact exists_next_execConstruct c rev s1 s2 key s
  | wrPlain | wrRo | wrKey | wrW1s | wrW1c | wrW1sp | wrRng => exact exists_next_exec_write hd rfl
  | reset | pclkqA | pclkqB | rdBuserr | wrBuserr | rdOor | wrOor | rdPlain | rdRng | rdWowarn | rsvdOp47
    | rsvdOp8F => exact ⟨_, withDevice_some hd⟩

/-- With a device a step that has something to perform performs an operation and is answered; it takes that one
operation and keeps the parameters. -/
theorem exists_next_step {s : State} {d : Device} {r : Request} {rest : List Request} (hd : s.dev = some d)
    (h : s.pending = r :: rest) : ∃ t, step s = .next t ∧ t.pending = rest ∧ t.params = s.params := by
  obtain ⟨i, hdec⟩ := exists_decode (modeOf s.params d.cfg.variant) r
  obtain ⟨t, hexec⟩ := exists_next_exec (s := s.setPending rest) i hd
  obtain ⟨hparams, hpending, -⟩ := exec_answers hexec
  have hstep : step s = exec i (s.setPending rest) :=
    stepRunsTheDecodedOperation.1 s r rest i h ((State.mode_of_dev hd).symm ▸ hdec)
  exact ⟨t, hstep.trans hexec, hpending, hparams⟩

/-! ### The gate's report -/

/-- No policy reports `DIAG_LOCKED`: that is the gate's alone (R113). -/
theorem policyWrite_diag_locked (p : Params) (i : Instr) (vd : Descriptor) (x : RegFile) :
    (policyWrite p i vd x).diag.locked = false := by
  obtain h | h | h := policyWrite_diag p i vd x <;> rw [h]

end Sys2Proof.Machine

namespace Sys2Proof

open Machine

/-- Settles O2: the decoder is total and gives rows of the mode, and of these a word has one. -/
theorem everyWordIsExactlyOneRow : Obligations.EveryWordIsExactlyOneRow := by
  intro m r
  obtain ⟨i, hdec⟩ := exists_decode m r
  have hi := decode_wellFormed hdec
  exact ⟨i, hdec, hi, fun j hj => eq_of_encode_eq hi hj⟩

/-- Settles O9: no operation on a device stops, the configuration survives every transaction word, and the invariant of
the next state gives the number of cells. -/
theorem everyAccessIsAnswered : Obligations.EveryAccessIsAnswered := by
  intro s d w rest hs hd hpend
  obtain ⟨t, hstep, hpending, hparams⟩ := exists_next_step hd hpend
  have hcfg : t.dev.map Device.cfg = some d.cfg := by
    rw [(configurationIsImmutable s t hstep).2 w rest hpend, hd, Option.map_some]
  obtain ⟨d', hd', hcfg'⟩ := Option.map_eq_some_iff.1 hcfg
  obtain ⟨-, hdev⟩ := everyStepKeepsTheInvariant s t hs hstep
  obtain ⟨-, hfile, -⟩ := hdev d' hd'
  rw [hparams, hcfg'] at hfile
  exact ⟨t, d', hstep, hd', hcfg', beq_iff_eq.1 hfile, hpending, hparams⟩

/-- Settles O16: the rejected row is the row of what is not admitted, and it answers `ERR`. -/
theorem boundaryRejectsUnadmittedAccesses : Obligations.BoundaryRejectsUnadmittedAccesses := by
  intro s d w o wd hd
  have hadm := not_congr (admitted_iff d.cfg.variant w o)
  exact ⟨(decodeRead_eq_rdBuserr_iff ..).trans hadm, (decodeWrite_eq_wrBuserr_iff ..).trans hadm,
    withDevice_some hd, withDevice_some hd⟩

/-- Settles O18, by the select condition of the out-of-range rows. -/
theorem offsetResolvesToIndex : Obligations.OffsetResolvesToIndex := by
  refine fun o => ⟨indexOf_eq o, fun m w wd hadm => ⟨?_, ?_⟩⟩
  · rw [decodeRead_eq_rdOor_iff, and_iff_right hadm]
  · rw [decodeWrite_eq_wrOor_iff, and_iff_right hadm]

/-- Settles O23: the gate adds the report of R74 to a policy that never reports `DIAG_LOCKED`, and where it blocks the
write the report is all that happens. -/
theorem lockGateOnEveryWrite : Obligations.LockGateOnEveryWrite := by
  intro s d i o hd ho
  rw [exec_write s ho]
  obtain ⟨hreport, -, h⟩ | ⟨hopen, h⟩ := gatedWrite_cases o (policyWrite s.params i) hd
  · exact ⟨_, h, rfl, hreport.symm, fun _ _ => rfl⟩
  · refine ⟨_, h, rfl, ?_, fun hreport hblocks => ?_⟩
    · rw [State.setOut_out, Diag.union, policyWrite_diag_locked, Bool.or_false]
    · exact absurd (of_decide_eq_true hreport) (hopen hblocks)

/-- Settles O19: the row by its select condition, its answer by its meaning. -/
theorem outOfRangeReadReturnsZero : Obligations.OutOfRangeReadReturnsZero :=
  fun _ _ _ _ hd => ⟨fun hadm hout => (decodeRead_eq_rdOor_iff ..).2 ⟨hadm, hout⟩, withDevice_some hd⟩

/-- Settles O20: the row by its select condition, its answer by its meaning, which consults no gate. -/
theorem outOfRangeWriteIsDropped : Obligations.OutOfRangeWriteIsDropped :=
  fun _ _ _ _ _ hd => ⟨fun hadm hout => (decodeWrite_eq_wrOor_iff ..).2 ⟨hadm, hout⟩, withDevice_some hd⟩

end Sys2Proof

/-! PROOFS, family 41_write_policies.md: an in-range write the gate lets through is the effect of its policy with the
gate's report beside it; the effect of each policy; and the set and the clear of a target by their steps. -/

namespace Sys2Proof.Machine

/-! ### A write the gate lets through -/

/-- The gate's report beside the report of a policy, which never has `DIAG_LOCKED` of its own (R76, R113). -/
theorem Diag.union_of_locked_false (b : Bool) {g : Diag} (h : g.locked = false) :
    ({ locked := b } : Diag).union g = { g with locked := b } := by
  simp [Diag.union, h]

/-- A write the gate lets through leaves the file its policy makes and is answered `OK`, with what the policy reports
and `DIAG_LOCKED` where the gate reports it (R74, R76). -/
theorem exec_write_open {s : State} {d : Device} {i : Instr} {o : Word} {e : Effect} (hd : s.dev = some d)
    (ho : i.writeOffset = some o) (hg : GateOpen (s.vd d) d.x o)
    (he : policyWrite s.params i (s.vd d) d.x = e) :
    exec i s = .next ((s.setFile d e.x).setOut
      { diag := { e.diag with locked := lockedReport (s.vd d) d.x o } }) := by
  subst he
  rw [exec_write s ho, gatedWrite_open hd hg, gateDiag, lockViolation_eq,
    Diag.union_of_locked_false _ (policyWrite_diag_locked ..)]

/-- Storing the file a device has changes nothing. -/
theorem State.setFile_self {s : State} {d : Device} (hd : s.dev = some d) : s.setFile d d.x = s := by
  rw [State.setFile, ← hd]

/-- A write whose policy keeps the file changes the outputs alone (R81, R85, R86). -/
theorem exec_write_dropped {s : State} {d : Device} {i : Instr} {o : Word} {g : Diag} (hd : s.dev = some d)
    (ho : i.writeOffset = some o) (hg : GateOpen (s.vd d) d.x o)
    (he : policyWrite s.params i (s.vd d) d.x = ⟨d.x, g⟩) :
    exec i s = .next (s.setOut { diag := { g with locked := lockedReport (s.vd d) d.x o } }) := by
  rw [exec_write_open hd ho hg he, State.setFile_self hd]

/-- The gate lets a write of the key cell through, the key cell not being guarded (R16). -/
theorem gateOpen_of_indexOf_eq_k {vd : Descriptor} (x : RegFile) {o : Word} (h : indexOf o = vd.k) :
    GateOpen vd x o := fun _ ⟨hlt, _⟩ => hlt.ne' h

/-- The gate reports nothing on a write of the key cell (R16, R74). -/
theorem lockedReport_of_indexOf_eq_k {vd : Descriptor} (x : RegFile) {o : Word} (h : indexOf o = vd.k) :
    lockedReport vd x o = false :=
  decide_eq_false fun ⟨hlt, _⟩ => hlt.ne' h

/-! ### The policies that consult a pairing -/

/-- The paired clear of a cell with a target (R84). -/
theorem policyWrite_wrW1c {vd : Descriptor} {o : Word} {t : Nat} (p : Params) (w : BitVec 4) (v : Word) (x : RegFile)
    (ht : clrTarget vd (indexOf o) = some t) :
    policyWrite p (.wrW1c w o v) vd x = { x := clearBits x t (writeValue w v) } := by
  rw [policyWrite, clearPolicy, ht]

/-- A strap whose protect cell is not zero keeps its value and reports it (R85). -/
theorem policyWrite_wrW1sp_of_ne {vd : Descriptor} {x : RegFile} {o : Word} {c : Nat} (p : Params) (w : BitVec 4)
    (v : Word) (hc : protectCell vd (indexOf o) = some c) (hx : RegFile.cell x c ≠ 0) :
    policyWrite p (.wrW1sp w o v) vd x = ⟨x, { writeProtected := true }⟩ := by
  rw [policyWrite, strapPolicy, hc]
  exact if_pos hx

/-- A strap whose protect cell is zero accumulates (R85). -/
theorem policyWrite_wrW1sp_of_eq {vd : Descriptor} {x : RegFile} {o : Word} {c : Nat} (p : Params) (w : BitVec 4)
    (v : Word) (hc : protectCell vd (indexOf o) = some c) (hx : RegFile.cell x c = 0) :
    policyWrite p (.wrW1sp w o v) vd x = { x := accumulateOr x (indexOf o) (writeValue w v) } := by
  rw [policyWrite, strapPolicy, hc]
  exact if_neg (not_not_intro hx)

/-! ### Set and clear of one cell -/

/-- A set cell reads as before OR what was written (R83). -/
theorem cell_accumulateOr_self {x : RegFile} {i : Nat} (v : Word) (h : i < x.length) :
    RegFile.cell (accumulateOr x i v) i = RegFile.cell x i ||| v :=
  RegFile.cell_put_self x _ h

/-- A cleared cell reads as before AND NOT what was written (R84). -/
theorem cell_clearBits_self {x : RegFile} {t : Nat} (v : Word) (h : t < x.length) :
    RegFile.cell (clearBits x t v) t = RegFile.cell x t &&& ~~~v :=
  RegFile.cell_put_self x _ h

/-- Bits set and cleared again are the bits cleared (R87). -/
theorem or_and_not_self (c v : Word) : (c ||| v) &&& ~~~v = c &&& ~~~v := by
  ext i
  cases h : v[i] <;> simp [h]

/-- Cell `t` accumulates what is written to it: a `W1S` cell, or a strap whose protect cell is zero (R83, R85). -/
def Settable (vd : Descriptor) (x : RegFile) (t : Nat) : Prop :=
  t ∈ vd.w1sSet ∨ ∃ p, protectCell vd t = some p ∧ RegFile.cell x p = 0

/-- A settable cell of `V_NEW` is in the file, and its tag is `W1S`, or `W1SP` with a protect cell that is zero: the
protect cells R7(c) admits are those of straps. -/
theorem Settable.policy {v : Variant} {vd : Descriptor} {x : RegFile} {t : Nat} (h : Settable vd x t)
    (hwf : vd.wf v = true) (hv : v = .new) :
    t < vd.n ∧ (policy ⟨v, vd⟩ t = .w1s
      ∨ policy ⟨v, vd⟩ t = .w1sp ∧ ∃ p, protectCell vd t = some p ∧ RegFile.cell x p = 0) := by
  obtain ⟨hindexes, -, hpairs, -⟩ := Descriptor.wf_clauses hwf
  obtain ⟨-, -, hs1, hs2, -, -, -, hw1s, -⟩ := wfIndexes_lt hindexes
  rcases h with hmem | ⟨p, hp, hx⟩
  · exact ⟨hw1s t hmem, .inl (policy_of_inClass hwf ⟨hv, hmem⟩)⟩
  · obtain ⟨-, -, -, hnew⟩ := wfPairs_clr hpairs
    obtain ⟨-, -, hprot⟩ := hnew hv
    have hstrap : t = vd.strap1 ∨ t = vd.strap2 := hprot t p (mem_of_lookup hp)
    refine ⟨?_, .inr ⟨policy_of_inClass hwf ⟨hv, hstrap⟩, p, hp, hx⟩⟩
    rcases hstrap with rfl | rfl
    · exact hs1
    · exact hs2

end Sys2Proof.Machine

namespace Sys2Proof

open Machine

/-! ### The rows of the accesses -/

/-- An in-range access to a cell of a tag meets the select condition of that one tag. -/
theorem selects_of_policy {m : Mode} {w : BitVec 4} {o : Word} {t : Policy} (hin : inRange m w o = true)
    (hp : policy m (indexOf o) = t) : selects m w o [t] = true :=
  (selects_iff ..).2 ⟨hin, List.mem_singleton.2 hp⟩

/-- An aligned access of width 4 to a cell of the file is in range on every variant (R70, R71). -/
theorem inRange_four {m : Mode} {o : Word} (hal : o.toNat % 4 = 0) (hlt : indexOf o < m.vd.n) :
    inRange m 4 o = true := by
  have hadm : admitted m.variant 4 o = true := by
    rw [admitted_iff]
    split
    · decide
    · exact ⟨rfl, hal⟩
  rw [inRange, hadm, decide_eq_true hlt, Bool.and_self]

/-- A whole-word read of a settable cell is a plain read (R77). -/
theorem decodeRead_settable {v : Variant} {vd : Descriptor} {x : RegFile} {o : Word} (hwf : vd.wf v = true)
    (hv : v = .new) (hal : o.toNat % 4 = 0) (ht : Settable vd x (indexOf o)) :
    decodeRead ⟨v, vd⟩ 4 o = .rdPlain 4 o := by
  obtain ⟨hlt, htag⟩ := ht.policy hwf hv
  refine decodeRead_eq_rdPlain (inRange_four hal hlt) ?_ ?_ <;>
    rcases htag with h | ⟨h, -⟩ <;> rw [h] <;> decide

/-- A whole-word write of a settable cell is a write whose policy accumulates (R76, R83, R85). -/
theorem decodeWrite_settable {v : Variant} {vd : Descriptor} {x : RegFile} {o : Word} (p : Params) (wd : Word)
    (hwf : vd.wf v = true) (hv : v = .new) (hal : o.toNat % 4 = 0) (ht : Settable vd x (indexOf o)) :
    (decodeWrite ⟨v, vd⟩ 4 o wd).writeOffset = some o
      ∧ policyWrite p (decodeWrite ⟨v, vd⟩ 4 o wd) vd x = { x := accumulateOr x (indexOf o) wd } := by
  obtain ⟨hlt, htag | ⟨htag, c, hc, hx⟩⟩ := ht.policy hwf hv
  · rw [decodeWrite_of_wellFormed (i := .wrW1s 4 o wd) rfl (selects_of_policy (inRange_four hal hlt) htag)]
    exact ⟨rfl, by rw [policyWrite, setPolicy, writeValue_four]⟩
  · rw [decodeWrite_of_wellFormed (i := .wrW1sp 4 o wd) rfl (selects_of_policy (inRange_four hal hlt) htag)]
    exact ⟨rfl, by rw [policyWrite_wrW1sp_of_eq _ _ _ hc hx, writeValue_four]⟩

/-- A whole-word write of a clear cell is a paired clear (R76). -/
theorem decodeWrite_clearCell {v : Variant} {vd : Descriptor} {o : Word} {t : Nat} (wd : Word)
    (hwf : vd.wf v = true) (hv : v = .new) (hal : o.toNat % 4 = 0) (ht : clrTarget vd (indexOf o) = some t) :
    decodeWrite ⟨v, vd⟩ 4 o wd = .wrW1c 4 o wd := by
  obtain ⟨hindexes, -⟩ := Descriptor.wf_clauses hwf
  obtain ⟨-, -, -, -, -, -, -, -, hclr⟩ := wfIndexes_lt hindexes
  have hmem := mem_of_lookup ht
  obtain ⟨hlt, -⟩ := hclr _ t hmem
  have htag : policy ⟨v, vd⟩ (indexOf o) = .w1c :=
    policy_of_inClass hwf ⟨hv, List.mem_map_of_mem (f := Prod.fst) hmem⟩
  exact decodeWrite_of_wellFormed rfl (selects_of_policy (inRange_four hal hlt) htag)

end Sys2Proof

namespace Sys2Proof.Machine

/-! ### The steps of a set and of a clear -/

/-- Two steps in a row are a run of two. -/
theorem core_run_two {s t u : State} (h : step s = .next t) (h' : step t = .next u) :
    Host.Core.run Sys2Proof.core 2 s = .next u :=
  (core_run_succ 1 h).trans (core_run_succ 0 h')

/-- Three steps in a row are a run of three. -/
theorem core_run_three {s t u r : State} (h : step s = .next t) (h' : step t = .next u) (h'' : step u = .next r) :
    Host.Core.run Sys2Proof.core 3 s = .next r :=
  (core_run_succ 2 h).trans (core_run_two h' h'')

/-- The step of a write word the gate lets through is the effect of its row's policy (R76). -/
theorem step_write_open {s : State} {d : Device} {w : BitVec 4} {o v : Word} {rest : List Request} {e : Effect}
    (hd : s.dev = some d) (h : s.pending = .tw (mkTw 1 w o v) :: rest) (hg : GateOpen (s.vd d) d.x o)
    (ho : (decodeWrite (modeOf s.params d.cfg.variant) w o v).writeOffset = some o)
    (he : policyWrite s.params (decodeWrite (modeOf s.params d.cfg.variant) w o v) (s.vd d) d.x = e) :
    step s = .next (((s.setPending rest).setFile d e.x).setOut
      { diag := { e.diag with locked := lockedReport (s.vd d) d.x o } }) := by
  rw [step_write hd h]
  exact exec_write_open (s := s.setPending rest) hd ho hg he

/-- The step of a whole-word write of a settable cell accumulates (R83, R85). -/
theorem step_setBits {s : State} {d : Device} {o v : Word} {rest : List Request} (hd : s.dev = some d)
    (hwf : (s.vd d).wf d.cfg.variant = true) (hv : d.cfg.variant = .new) (hg : GateOpen (s.vd d) d.x o)
    (hal : o.toNat % 4 = 0) (ht : Settable (s.vd d) d.x (indexOf o))
    (h : s.pending = .tw (mkTw 1 4 o v) :: rest) :
    step s = .next (((s.setPending rest).setFile d (accumulateOr d.x (indexOf o) v)).setOut
      { diag := { locked := lockedReport (s.vd d) d.x o } }) := by
  obtain ⟨ho, he⟩ := decodeWrite_settable s.params v hwf hv hal ht
  exact step_write_open hd h hg ho he

/-- The step of a whole-word write of a clear cell clears bits of its target (R84). -/
theorem step_clearBits {s : State} {d : Device} {o v : Word} {t : Nat} {rest : List Request} (hd : s.dev = some d)
    (hwf : (s.vd d).wf d.cfg.variant = true) (hv : d.cfg.variant = .new) (hg : GateOpen (s.vd d) d.x o)
    (hal : o.toNat % 4 = 0) (ht : clrTarget (s.vd d) (indexOf o) = some t)
    (h : s.pending = .tw (mkTw 1 4 o v) :: rest) :
    step s = .next (((s.setPending rest).setFile d (clearBits d.x t v)).setOut
      { diag := { locked := lockedReport (s.vd d) d.x o } }) := by
  have hdec : decodeWrite (modeOf s.params d.cfg.variant) 4 o v = .wrW1c 4 o v :=
    decodeWrite_clearCell v hwf hv hal ht
  refine step_write_open (e := { x := clearBits d.x t v }) hd h hg (hdec ▸ rfl) ?_
  rw [hdec, policyWrite_wrW1c _ _ _ _ ht, writeValue_four]

end Sys2Proof.Machine

namespace Sys2Proof

open Machine

/-- Settles O33: the set stores the old value OR `X`, a clear after it takes the bits of `X` away, and the read answers
the target; the gate is open throughout, as no write changes `LOCK_BLOCKS`. -/
theorem setClearRoundTrip : Obligations.SetClearRoundTrip := by
  intro s d ot oc X hinv hd hv hlb halt halc hclr hset
  obtain ⟨hp, hdev⟩ := hinv
  have hwf : (s.vd d).wf d.cfg.variant = true := Params.wf_vdOf hp d.cfg.variant
  have htarget : Settable (s.vd d) d.x (indexOf ot) := hset
  have hread : decodeRead (modeOf s.params d.cfg.variant) 4 ot = .rdPlain 4 ot :=
    decodeRead_settable hwf hv halt htarget
  have hlen : indexOf ot < d.x.length :=
    (hdev d hd).indexOf_lt (inRange_four halt (htarget.policy hwf hv).1)
  have hgate (x : RegFile) (o : Word) : GateOpen (s.vd d) x o := gateOpen_of_lockBlocks_false x o hlb
  have setStep (rest : List Request) := step_setBits (s := s.setPending (.tw (mkTw 1 4 ot X) :: rest)) hd hwf hv
    (hgate d.x ot) halt htarget rfl
  refine ⟨⟨_, core_run_two (setStep _) (step_rdPlain rfl rfl hread), rfl, ?set⟩,
    _, core_run_three (setStep _) (step_clearBits rfl hwf hv (hgate _ oc) halc hclr rfl)
      (step_rdPlain rfl rfl hread), rfl, ?clear⟩
  case set => exact congrArg some ((writeValue_four _).trans (cell_accumulateOr_self X hlen))
  case clear =>
    refine congrArg some ((writeValue_four _).trans ?_)
    rw [cell_clearBits_self X ((accumulateOr_length ..).symm ▸ hlen), cell_accumulateOr_self X hlen,
      or_and_not_self]

/-- Settles O55: the device is as before or as the policy leaves it, and the policy of a paired clear stores to its
target only. -/
theorem frameOfPairedClear : Obligations.FrameOfPairedClear := by
  intro s t d w o wd hd hexec
  obtain ⟨d', ht, rfl | rfl⟩ := exec_write_next hd rfl hexec
  · exact ⟨d', ht, rfl, rfl, fun _ _ => rfl⟩
  · refine ⟨_, ht, rfl, policyWrite_length .., fun j hj => ?_⟩
    by_contra hne
    obtain ⟨-, ⟨-, hno⟩ | ⟨-, htarget⟩⟩ := policyWrite_cell rfl hne
    · exact hno w o wd rfl
    · exact hj htarget

/-- Settles O26, by the effect of the plain policy. -/
theorem plainWriteReplacesTheCell : Obligations.PlainWriteReplacesTheCell :=
  fun _ _ _ _ wd hd => ⟨fun hin hp => decodeWrite_eq_wrPlain wd hin hp, fun hg => exec_write_open hd rfl hg rfl⟩

/-- Settles O27: the policy of a read-only cell drops the write. -/
theorem readOnlyWriteIsRejected : Obligations.ReadOnlyWriteIsRejected :=
  fun _ _ w o wd hd => ⟨fun hin hp => decodeWrite_of_wellFormed rfl (selects_of_policy hin hp),
    fun hg => exec_write_dropped (i := .wrRo w o wd) (g := { roWrite := true }) hd rfl hg rfl⟩

/-- Settles O28: the key cell is not guarded, so its policy's effect is all that happens. -/
theorem keyWriteSetsTheLockFlag : Obligations.KeyWriteSetsTheLockFlag := by
  intro s d w o wd hd hk
  refine ⟨fun hin => decodeWrite_of_wellFormed rfl (selects_of_policy hin (if_pos hk)), ?_⟩
  rw [exec_write_open (i := .wrKey w o wd) hd rfl (gateOpen_of_indexOf_eq_k d.x hk) rfl,
    lockedReport_of_indexOf_eq_k d.x hk, ← hk]
  rfl

/-- Settles O29, by the effect of the accumulate-OR policy. -/
theorem accumulateOrSetsBits : Obligations.AccumulateOrSetsBits :=
  fun _ _ _ _ _ hd => ⟨fun hin hp => decodeWrite_of_wellFormed rfl (selects_of_policy hin hp),
    fun hg => exec_write_open hd rfl hg rfl⟩

/-- Settles O30, by the effect of the paired clear on a cell with a target. -/
theorem pairedClearClearsTheTarget : Obligations.PairedClearClearsTheTarget :=
  fun s d w _ wd _ hd ht => ⟨fun hin hp => decodeWrite_of_wellFormed rfl (selects_of_policy hin hp),
    fun hg => exec_write_open hd rfl hg (policyWrite_wrW1c s.params w wd d.x ht)⟩

/-- Settles O31, by the two effects of the strap policy. -/
theorem strapWriteConsultsItsProtectCell : Obligations.StrapWriteConsultsItsProtectCell :=
  fun s _ w _ wd _ hd hp => ⟨fun hin htag => decodeWrite_of_wellFormed rfl (selects_of_policy hin htag),
    fun hg hx => exec_write_dropped hd rfl hg (policyWrite_wrW1sp_of_ne s.params w wd hp hx),
    fun hg hx => exec_write_open hd rfl hg (policyWrite_wrW1sp_of_eq s.params w wd hp hx)⟩

/-- Settles O32: the policy of the random-data cell drops the write, and no write takes a draw. -/
theorem randomCellWriteIsRejected : Obligations.RandomCellWriteIsRejected :=
  fun _ _ w o wd hd => ⟨fun hin hp => decodeWrite_of_wellFormed rfl (selects_of_policy hin hp),
    fun hg => exec_write_dropped (i := .wrRng w o wd) (g := { roWrite := true }) hd rfl hg rfl⟩

end Sys2Proof

/-! PROOFS, family 42_read_policies.md: the answer of each read row, the draw of the random-data read, and what the
invariant fixes of a read-only and of a clear cell. -/

namespace Sys2Proof.Machine

/-! ### The random source -/

/-- A draw with an injected word waiting takes it (R38). -/
theorem State.draw_of_cons {s : State} {r : Word} {rs : List Word} (h : s.rngIn = r :: rs) : s.draw = r := by
  rw [State.draw, h]

/-- That draw leaves the injected words after it (R38). -/
theorem State.drawn_of_cons {s : State} {r : Word} {rs : List Word} (h : s.rngIn = r :: rs) :
    s.drawn = { s with rngIn := rs } := by
  rw [State.drawn, h]

/-- A draw with no injected word waiting is the next free value (R38, U1, log entry 5). -/
theorem State.draw_of_nil {s : State} (h : s.rngIn = []) : s.draw = Config.freeDraw s.free := by
  rw [State.draw, h]

/-- That draw counts one free value and takes no injected word. -/
theorem State.drawn_of_nil {s : State} (h : s.rngIn = []) : s.drawn = { s with free := s.free + 1 } := by
  rw [State.drawn, h]

/-! ### The answers of the read rows -/

/-- A random-data read stores the whole draw in the cell and answers it masked (R91). -/
theorem exec_rdRng {s : State} {d : Device} (w : BitVec 4) (o : Word) (hd : s.dev = some d) :
    exec (.rdRng w o) s = .next ((s.drawn.setFile d (RegFile.put d.x (indexOf o) s.draw)).setOut
      { rdata := some (readData w s.draw) }) :=
  withDevice_some hd

/-- A read of a write-only-warn cell answers the masked cell, flagged `DIAG_WO_READ` (R92). -/
theorem exec_rdWowarn {s : State} {d : Device} (w : BitVec 4) (o : Word) (hd : s.dev = some d) :
    exec (.rdWowarn w o) s = .next (s.setOut
      { rdata := some (readData w (RegFile.cell d.x (indexOf o))), diag := { woRead := true } }) :=
  plainRead_some hd

/-- A plain read of a cell that holds `v` answers `v` masked and keeps the device (R90). -/
theorem exec_rdPlain_of_cell_eq {s : State} {d : Device} {o v : Word} (w : BitVec 4) (hd : s.dev = some d)
    (hv : RegFile.cell d.x (indexOf o) = v) :
    ∃ t, exec (.rdPlain w o) s = .next t ∧ t.dev = some d ∧ t.out.rdata = some (readData w v) :=
  ⟨_, exec_rdPlain w o hd, hd, by rw [State.setOut_out, hv]⟩

end Sys2Proof.Machine

namespace Sys2Proof

open Machine

/-- Settles O38: the invariant says what a read-only and a clear cell hold, and a plain read answers that. -/
theorem readOnlyAndClearCellsReadAsReset : Obligations.ReadOnlyAndClearCellsReadAsReset := by
  intro s d w o ⟨_, hdev⟩ hd
  obtain ⟨-, -, hro, hclr⟩ := hdev d hd
  exact ⟨fun hmem => exec_rdPlain_of_cell_eq w hd (hro _ hmem),
    fun hmem => exec_rdPlain_of_cell_eq w hd (hclr _ hmem)⟩

/-- Settles O56: the read stores to the one cell it reads, and a draw takes at most the first injected word. -/
theorem frameOfRandomRead : Obligations.FrameOfRandomRead := by
  intro s t d w o hd hexec
  obtain rfl := next_eq_next.1 ((exec_rdRng w o hd).symm.trans hexec)
  exact ⟨_, rfl, rfl, RegFile.put_length .., fun _ hj => RegFile.cell_put_ne _ _ hj,
    s.drawn_params, s.drawn_pending, s.drawn_rngIn⟩

/-- Settles O35, by the row of an in-range read and its answer. -/
theorem plainReadReturnsTheCell : Obligations.PlainReadReturnsTheCell :=
  fun _ _ w o hd => ⟨decodeRead_eq_rdPlain, exec_rdPlain w o hd⟩

/-- Settles O36: the answer of the random-data read, with the draw an injected word or a free value. -/
theorem randomReadReplacesTheCell : Obligations.RandomReadReplacesTheCell := by
  intro s d w o r rs hd
  refine ⟨fun hin hp => decodeRead_of_wellFormed rfl (selects_of_policy hin hp), fun hcons => ?_, fun hnil => ?_⟩
  · rw [exec_rdRng w o hd, State.draw_of_cons hcons, State.drawn_of_cons hcons]
    rfl
  · rw [exec_rdRng w o hd, State.draw_of_nil hnil, State.drawn_of_nil hnil]
    rfl

/-- Settles O37, by the row of an in-range read of a write-only-warn cell and its answer. -/
theorem writeOnlyReadIsFlagged : Obligations.WriteOnlyReadIsFlagged :=
  fun _ _ w o hd => ⟨fun hin hp => decodeRead_of_wellFormed rfl (selects_of_policy hin hp), exec_rdWowarn w o hd⟩

end Sys2Proof

/-! PROOFS, family 43_clock_derivation.md: the bits and fields of the two decode algorithms as numbers, and what a
frequency query answers. -/

namespace Sys2Proof.Machine

/-! ### The decode algorithms in numbers -/

/-- A bit of a word is set where the number it is, is 1. -/
theorem bitOf_iff (v : Word) (b : Nat) : bitOf v b = true ↔ v.toNat / 2 ^ b % 2 = 1 := by
  rw [← bitOf_toNat, Bool.toNat_eq_one]

/-- The multiplier of Algorithm A, field by field (R97). -/
theorem multiplierA_eq (vd : Descriptor) (h : Word) : multiplierA vd h =
    (2 - h.toNat / 2 ^ vd.aOdBit % 2)
      * ((h.toNat / 2 ^ vd.aFb.lo % 2 ^ (vd.aFb.hi + 1 - vd.aFb.lo) + 2)
          / (h.toNat / 2 ^ vd.aDiv.lo % 2 ^ (vd.aDiv.hi + 1 - vd.aDiv.lo) + 1)) := by
  rw [multiplierA, bitOf_toNat, fieldOf_eq, fieldOf_eq]

/-- With the bypass bit set Algorithm B multiplies by 1 (R98). -/
theorem multiplierB_of_bypass {vd : Descriptor} {h : Word} (hb : bitOf h vd.bBypassBit = true) :
    multiplierB vd h = 1 := if_pos hb

/-- Without it, by two truncating divisions of its fields (R98). -/
theorem multiplierB_of_not_bypass {vd : Descriptor} {h : Word} (hb : ¬ bitOf h vd.bBypassBit = true) :
    multiplierB vd h = ((h.toNat / 2 ^ vd.bM.lo % 2 ^ (vd.bM.hi + 1 - vd.bM.lo) + 1)
        / (h.toNat / 2 ^ vd.bN.lo % 2 ^ (vd.bN.hi + 1 - vd.bN.lo) + 1))
      / (h.toNat / 2 ^ vd.bP.lo % 2 ^ (vd.bP.hi + 1 - vd.bP.lo) + 1) := by
  rw [multiplierB, if_neg hb, fieldOf_eq, fieldOf_eq, fieldOf_eq]

/-- Algorithm A with the off bit set (R97). -/
theorem pllA_of_off {vd : Descriptor} (cfg : DeviceConfig) {h : Word} (hoff : bitOf h vd.aOffBit = true) :
    pllA vd cfg h = 0 := if_pos hoff

/-- Algorithm A neither off nor programmed looks the strap table up (R97, R101). -/
theorem pllA_of_fallback {vd : Descriptor} (cfg : DeviceConfig) {h : Word} (hoff : bitOf h vd.aOffBit = false)
    (hprog : bitOf h vd.aProgBit = false) :
    pllA vd cfg h = strapTable vd (bitOf cfg.hwStrap1 vd.a25mBit).toNat (fieldOf cfg.hwStrap1 vd.aFsel) := by
  rw [pllA, if_neg (Bool.eq_false_iff.1 hoff), if_neg (Bool.eq_false_iff.1 hprog)]

/-- Algorithm B with the off bit set (R98). -/
theorem pllB_of_off {vd : Descriptor} (cfg : DeviceConfig) {h : Word} (hoff : bitOf h vd.bOffBit = true) :
    pllB vd cfg h = 0 := if_pos hoff

/-- The selected algorithm's output fits 32 bits (R95, R99). -/
theorem pllOut_lt (vd : Descriptor) (cfg : DeviceConfig) (x : RegFile) : pllOut vd cfg x < 2 ^ 32 := by
  unfold pllOut
  split
  · exact pllA_lt vd cfg _
  · exact pllB_lt vd cfg _

/-! ### The frequency query -/

/-- The two divisions of a PLL output, the clock-select divider as a number (R100). -/
theorem busClock_eq (vd : Descriptor) (cfg : DeviceConfig) (x : RegFile) (out : Nat) : busClock vd cfg x out =
    out / ((RegFile.cell x vd.clksel).toNat / 2 ^ vd.pclkDiv.lo % 2 ^ (vd.pclkDiv.hi + 1 - vd.pclkDiv.lo) + 1)
      / busDiv cfg.variant := by
  rw [busClock, fieldOf_eq]

/-- The two divisions are one (R100(d)). -/
theorem busClock_eq_div_mul (vd : Descriptor) (cfg : DeviceConfig) (x : RegFile) (out : Nat) :
    busClock vd cfg x out
      = out / ((fieldOf (RegFile.cell x vd.clksel) vd.pclkDiv + 1) * busDiv cfg.variant) :=
  Nat.div_div_eq_div_mul ..

/-- A stopped PLL gives frequency 0 (R100(a)). -/
theorem busClock_zero (vd : Descriptor) (cfg : DeviceConfig) (x : RegFile) : busClock vd cfg x 0 = 0 :=
  Nat.le_zero.1 (busClock_le vd cfg x 0)

/-- The frequency of a 32-bit PLL output is at most `(2^32 - 1) / BUS_DIV` (43_clock_derivation.md section 5). -/
theorem busClock_le_div_busDiv (vd : Descriptor) (cfg : DeviceConfig) (x : RegFile) {out : Nat} (h : out < 2 ^ 32) :
    busClock vd cfg x out ≤ (2 ^ 32 - 1) / busDiv cfg.variant :=
  Nat.div_le_div_right ((Nat.div_le_self _ _).trans (Nat.le_pred_of_lt h))

/-- The answer word of a query holds the whole frequency (R95). -/
theorem toNat_ofNat_busClock (vd : Descriptor) (cfg : DeviceConfig) (x : RegFile) {out : Nat} (h : out < 2 ^ 32) :
    (BitVec.ofNat 32 (busClock vd cfg x out)).toNat = busClock vd cfg x out := by
  rw [BitVec.toNat_ofNat, Nat.mod_eq_of_lt ((busClock_le vd cfg x out).trans_lt h)]

/-- What `PCLKQ.A` answers (R100). -/
theorem exec_pclkqA {s : State} {d : Device} (hd : s.dev = some d) :
    exec .pclkqA s = .next (s.setOut { pclkHz := some (BitVec.ofNat 32
      (busClock (s.vd d) d.cfg d.x (pllA (s.vd d) d.cfg (RegFile.cell d.x (s.vd d).hpll)))) }) :=
  withDevice_some hd

/-- What `PCLKQ.B` answers (R100). -/
theorem exec_pclkqB {s : State} {d : Device} (hd : s.dev = some d) :
    exec .pclkqB s = .next (s.setOut { pclkHz := some (BitVec.ofNat 32
      (busClock (s.vd d) d.cfg d.x (pllB (s.vd d) d.cfg (RegFile.cell d.x (s.vd d).hpll)))) }) :=
  withDevice_some hd

/-- Every variant but `V_OLD` decodes the PLL by Algorithm B (R4). -/
theorem pllAlg_of_ne_old {v : Variant} (hv : v ≠ .old) : pllAlg v = .b := by
  cases v with
  | old => exact absurd rfl hv
  | mid | new => rfl

/-- Every variant but `V_OLD` divides the peripheral bus by 4 (R4). -/
theorem busDiv_of_ne_old {v : Variant} (hv : v ≠ .old) : busDiv v = 4 := by
  cases v with
  | old => exact absurd rfl hv
  | mid | new => rfl

/-- The query word is `PCLKQ.A` where the variant has Algorithm A (R99). -/
theorem decodeQuery_of_a {m : Mode} (h : pllAlg m.variant = .a) : decodeQuery m = .pclkqA := by
  rw [decodeQuery, h]

/-- The query word is `PCLKQ.B` where the variant has Algorithm B (R99). -/
theorem decodeQuery_of_b {m : Mode} (h : pllAlg m.variant = .b) : decodeQuery m = .pclkqB := by
  rw [decodeQuery, h]

/-- The query of the device's own mode answers the output its variant selects, divided (R99, R100). -/
theorem exec_decodeQuery {s : State} {d : Device} (hd : s.dev = some d) :
    exec (decodeQuery (modeOf s.params d.cfg.variant)) s = .next (s.setOut { pclkHz := some (BitVec.ofNat 32
      (busClock (s.vd d) d.cfg d.x (pllOut (s.vd d) d.cfg d.x))) }) := by
  cases halg : pllAlg d.cfg.variant with
  | a => rw [decodeQuery_of_a halg, exec_pclkqA hd, pllOut, halg]
  | b => rw [decodeQuery_of_b halg, exec_pclkqB hd, pllOut, halg]

end Sys2Proof.Machine

namespace Sys2Proof

open Machine

/-- Settles O46: the query answers the whole of `busClock`, whose two divisions are one of a 32-bit output. -/
theorem queryIsOneDivisionAndBounded : Obligations.QueryIsOneDivisionAndBounded := by
  intro s t d f hd hexec hf
  obtain rfl := next_eq_next.1 ((exec_decodeQuery hd).symm.trans hexec)
  obtain rfl := Option.some.inj hf
  have hlt := pllOut_lt (s.vd d) d.cfg d.x
  rw [toNat_ofNat_busClock _ _ _ hlt]
  exact ⟨busClock_eq_div_mul .., busClock_le_div_busDiv _ _ _ hlt⟩

/-- Settles O40: the two bits as numbers. -/
theorem clockInputSelection : Obligations.ClockInputSelection :=
  fun _ _ => if_congr (bitOf_iff ..) rfl (if_congr (bitOf_iff ..) rfl rfl)

/-- Settles O41: the three branches of the algorithm, with the fields of each as numbers. -/
theorem algorithmA : Obligations.AlgorithmA := by
  intro vd cfg h
  refine if_congr (bitOf_iff ..) rfl (if_congr (bitOf_iff ..) ?programmed ?fallback)
  case programmed => rw [wrapHz, multiplierA_eq]
  case fallback => rw [strapTable, bitOf_toNat, fieldOf_eq]

/-- Settles O42: off, or the wrapped product with the multiplier of each value of the bypass bit. -/
theorem algorithmB : Obligations.AlgorithmB := by
  intro vd cfg h
  refine if_congr (bitOf_iff ..) rfl ?_
  by_cases hb : bitOf h vd.bBypassBit = true
  · rw [if_pos ((bitOf_iff ..).1 hb), multiplierB_of_bypass hb, wrapHz, mul_one]
  · rw [if_neg (mt (bitOf_iff ..).2 hb), multiplierB_of_not_bypass hb, wrapHz]

/-- Settles O43: the row, the answer and the divisors of each algorithm's variants. -/
theorem frequencyQuery : Obligations.FrequencyQuery := by
  intro s d hd
  refine ⟨fun hold => ⟨decodeQuery_of_a (congrArg pllAlg hold), _, exec_pclkqA hd, ?old⟩,
    fun hnew => ⟨decodeQuery_of_b (pllAlg_of_ne_old hnew), _, exec_pclkqB hd, ?other⟩⟩
  case old => rw [toNat_ofNat_busClock _ _ _ (pllA_lt ..), busClock_eq, hold, busDiv]
  case other => rw [toNat_ofNat_busClock _ _ _ (pllB_lt ..), busClock_eq, busDiv_of_ne_old hnew]

/-- Settles O44: either algorithm gives 0 where its off bit is set, and 0 divided is 0. -/
theorem pllOffGivesZero : Obligations.PllOffGivesZero := by
  intro s d hd
  refine ⟨fun hoff => ?algA, fun hoff => ?algB⟩
  case algA => rw [exec_pclkqA hd, pllA_of_off d.cfg hoff, busClock_zero]; rfl
  case algB => rw [exec_pclkqB hd, pllB_of_off d.cfg hoff, busClock_zero]; rfl

/-- Settles O45: the fallback of Algorithm A, with the clear 25 MHz strap bit as row 0. -/
theorem strapFallbackIsTheTableEntry : Obligations.StrapFallbackIsTheTableEntry := by
  intro vd cfg h hoff hprog hstrap
  have hrow : bitOf cfg.hwStrap1 vd.a25mBit = false := hstrap
  rw [pllA_of_fallback cfg hoff hprog, hrow, Bool.toNat_false, strapTable, fieldOf_eq]

end Sys2Proof

/-! PROOFS, family 60_exceptions.md: no operation without a device, the responses and diagnostics of each row, and the
lock mode, which no write but that of the key cell sets or obeys. -/

namespace Sys2Proof.Machine

/-! ### Without a device -/

/-- Without a device every row but a construction stops (R116). -/
theorem exec_of_dev_none {s : State} {i : Instr} (hs : s.dev = none) (hi : ¬ i.IsConstruct) :
    exec i s = .fault .noInstance := by
  cases i with
  | construct => exact absurd trivial hi
  | wrPlain | wrRo | wrKey | wrW1s | wrW1c | wrW1sp | wrRng => exact (exec_write s rfl).trans (withDevice_none hs)
  | reset | pclkqA | pclkqB | rdBuserr | wrBuserr | rdOor | wrOor | rdPlain | rdRng | rdWowarn | rsvdOp47
    | rsvdOp8F => exact withDevice_none hs

/-- Without a device a transaction word is no operation, and the step of one stops (R116). -/
theorem step_tw_of_dev_none {s : State} {w : BitVec 72} {rest : List Request} (hs : s.dev = none)
    (h : s.pending = .tw w :: rest) : step s = .fault .noInstance := by
  have hmode : s.mode = none := by rw [State.mode, hs, Option.map_none]
  rw [step_of_pending h, hmode]
  rfl

/-! ### Responses and diagnostics -/

/-- `Reports i r g`: row `i` may be answered with response `r` and diagnostics `g` (R110 to R119). -/
inductive Reports : Instr → Resp → Diag → Prop
  /-- `ERR` is an answer of rows that change no cell, and comes with no diagnostic (R115). -/
  | err {i : Instr} (hk : i.keepsFile = true) : Reports i .err {}
  /-- `CfgError` is an answer of a construction (R116). -/
  | cfgError (c : BitVec 2) (rev s1 s2 key : Word) : Reports (.construct c rev s1 s2 key) .cfgError {}
  /-- A row may report nothing. -/
  | silent (i : Instr) : Reports i .ok {}
  /-- An out-of-range access (R111). -/
  | outOfRange (i : Instr) : Reports i .ok { oor := true }
  /-- A read of a write-only-warn cell (R114). -/
  | writeOnlyRead (i : Instr) : Reports i .ok { woRead := true }
  /-- An in-range write: what its policy reports (R112), and whether the lock gate reports beside it (R113). -/
  | write (i : Instr) (locked : Bool) {g : Diag}
      (hg : g = {} ∨ g = { roWrite := true } ∨ g = { writeProtected := true }) :
      Reports i .ok { g with locked := locked }

/-- An in-range write is answered `OK`, with the report of its policy and of the gate (R76). -/
theorem reports_of_write {s t : State} {i : Instr} {o : Word} (ho : i.writeOffset = some o)
    (h : exec i s = .next t) : Reports i t.out.resp t.out.diag := by
  rw [exec_write s ho] at h
  obtain ⟨d, hd, -⟩ := withDevice_next h
  obtain ⟨-, -, hb⟩ | ⟨-, hb⟩ := gatedWrite_cases o (policyWrite s.params i) hd <;> rw [hb] at h <;> cases h
  · exact .write i true (.inl rfl)
  · rw [State.setOut_out, Diag.union_of_locked_false _ (policyWrite_diag_locked ..)]
    exact .write i _ (policyWrite_diag ..)

/-- A construction reports no diagnostic, built or refused (R116, R130). -/
theorem reports_of_execConstruct {s t : State} {c : BitVec 2} {rev s1 s2 key : Word}
    (h : execConstruct c rev s1 s2 key s = .next t) :
    Reports (.construct c rev s1 s2 key) t.out.resp t.out.diag := by
  unfold execConstruct at h
  split at h
  · cases h; exact .cfgError ..
  · split at h <;> cases h
    · exact .silent _
    · exact .cfgError ..

/-- Every response an operation can have, with the diagnostics beside it. -/
theorem exec_reports {s t : State} {i : Instr} (h : exec i s = .next t) : Reports i t.out.resp t.out.diag := by
  cases i with
  | construct => exact reports_of_execConstruct h
  | wrPlain | wrRo | wrKey | wrW1s | wrW1c | wrW1sp | wrRng => exact reports_of_write rfl h
  | rdBuserr | wrBuserr | rsvdOp47 | rsvdOp8F =>
    obtain ⟨d, -, ⟨⟩⟩ := withDevice_next h
    exact .err rfl
  | rdOor | wrOor =>
    obtain ⟨d, -, ⟨⟩⟩ := withDevice_next h
    exact .outOfRange _
  | rdWowarn =>
    obtain ⟨d, -, ⟨⟩⟩ := withDevice_next h
    exact .writeOnlyRead _
  | reset | pclkqA | pclkqB | rdPlain | rdRng =>
    obtain ⟨d, -, ⟨⟩⟩ := withDevice_next h
    exact .silent _

/-- The bit patterns of the sets of R119. -/
theorem Reports.bits_mem {i : Instr} {r : Resp} {g : Diag} (h : Reports i r g) :
    g.bits ∈ [0b00000#5, 0b00001#5, 0b00010#5, 0b00100#5, 0b01000#5, 0b10000#5, 0b00110#5, 0b10100#5] := by
  cases h with
  | err | cfgError | silent | outOfRange | writeOnlyRead => decide
  | write _ locked hg => obtain rfl | rfl | rfl := hg <;> cases locked <;> decide

/-- What is not answered `OK` reports no diagnostic (R115, R116). -/
theorem Reports.diag_eq_of_resp_ne_ok {i : Instr} {r : Resp} {g : Diag} (h : Reports i r g) (hr : r ≠ .ok) :
    g = {} := by
  cases h with
  | err | cfgError => rfl
  | silent | outOfRange | writeOnlyRead | write => exact absurd rfl hr

/-- Only rows that change no cell are answered `ERR` (R115, R56). -/
theorem Reports.keepsFile_of_err {i : Instr} {g : Diag} (h : Reports i .err g) : i.keepsFile = true := by
  cases h
  assumption

/-- The `diag` output has one bit a code, in the order of R110. -/
theorem Diag.getLsbD_bits (g : Diag) : g.bits.getLsbD 0 = g.oor ∧ g.bits.getLsbD 1 = g.roWrite
    ∧ g.bits.getLsbD 2 = g.locked ∧ g.bits.getLsbD 3 = g.woRead ∧ g.bits.getLsbD 4 = g.writeProtected := by
  simp only [Diag.bits, BitVec.getLsbD_append]
  simp

/-! ### The key cell -/

/-- The file of a device that meets the invariant has the variant's cell count (R10). -/
theorem Device.Inv.length_eq {p : Params} {d : Device} (h : Device.Inv p d) :
    d.x.length = (vdOf p d.cfg.variant).n := by
  obtain ⟨-, hfile, -⟩ := h
  exact beq_iff_eq.1 hfile

/-- The key cell is in the file (R7(a)). -/
theorem Device.Inv.k_lt {p : Params} {d : Device} (h : Device.Inv p d) (hp : p.wf = true) :
    (vdOf p d.cfg.variant).k < d.x.length := by
  obtain ⟨hindexes, -⟩ := Descriptor.wf_clauses (Params.wf_vdOf hp d.cfg.variant)
  obtain ⟨hk, -⟩ := wfIndexes_lt hindexes
  exact hk.trans_eq h.length_eq.symm

/-- The lock mode is read off the key cell alone (R15, R121). -/
theorem isLocked_congr {vd : Descriptor} {x y : RegFile} (h : RegFile.cell y vd.k = RegFile.cell x vd.k) :
    isLocked vd y = isLocked vd x := by
  rw [isLocked, h, isLocked]

/-- No clear cell has the key cell as its target (R7(b), R7(c), R7(f)). -/
theorem clrTarget_ne_k {v : Variant} {vd : Descriptor} (hwf : vd.wf v = true) {c t : Nat}
    (ht : clrTarget vd c = some t) : t ≠ vd.k := by
  obtain ⟨-, hcls, hpairs, -, -, hstraps, -⟩ := Descriptor.wf_clauses hwf
  obtain ⟨⟨-, -, -, hw1s, -⟩, -⟩ := wfClasses_apart hcls
  obtain ⟨-, hs1, -, hs2, -⟩ := wfStraps_ne hstraps
  obtain ⟨htargets, -⟩ := wfPairs_clr hpairs
  rcases htargets c t (mem_of_lookup ht) with hmem | rfl | rfl
  · exact fun e => hw1s (e ▸ hmem)
  · exact hs1
  · exact hs2

/-- The row sets the lock mode: `RESET`, a write of the key cell, or a construction (R122). -/
def SetsLockMode (i : Instr) : Prop :=
  i = .reset ∨ (∃ w o wd, i = .wrKey w o wd) ∨ ∃ c rev s1 s2 key, i = .construct c rev s1 s2 key

/-- Of the rows of a mode only those that set the lock mode may change the key cell (R122). -/
theorem setsLockMode_of_mayChange_k {v : Variant} {vd : Descriptor} {i : Instr} (hwf : vd.wf v = true)
    (hi : i.WellFormed ⟨v, vd⟩) (h : i.mayChange vd vd.k) : SetsLockMode i := by
  cases i with
  | reset => exact .inl rfl
  | wrKey => exact .inr (.inl ⟨_, _, _, rfl⟩)
  | construct => exact .inr (.inr ⟨_, _, _, _, _, rfl⟩)
  | rdRng =>
    obtain ⟨-, hcls, -⟩ := Descriptor.wf_clauses hwf
    obtain ⟨⟨-, hrng, -⟩, -⟩ := wfClasses_apart hcls
    exact absurd h.2 hrng
  | wrW1c => exact absurd rfl (clrTarget_ne_k hwf h)
  | wrPlain w o | wrW1s w o | wrW1sp w o =>
    have hkey : policy ⟨v, vd⟩ (indexOf o) = .key := if_pos (Eq.symm h)
    obtain ⟨-, htag⟩ := (selects_iff ..).1 hi
    simp [hkey] at htag
  | pclkqA | pclkqB | rdBuserr | wrBuserr | rdOor | wrOor | rdPlain | rdWowarn | wrRo | wrRng | rsvdOp47
    | rsvdOp8F => exact h.elim

/-- A write of another cell keeps the key cell. -/
theorem cell_policyWrite_k {p : Params} {v : Variant} {vd : Descriptor} {i : Instr} {o : Word} (x : RegFile)
    (hwf : vd.wf v = true) (hi : i.WellFormed ⟨v, vd⟩) (ho : i.writeOffset = some o) (hk : indexOf o ≠ vd.k) :
    RegFile.cell (policyWrite p i vd x).x vd.k = RegFile.cell x vd.k := by
  by_contra hne
  obtain rfl | ⟨w, o', wd, rfl⟩ | ⟨c, rev, s1, s2, key, rfl⟩ :=
    setsLockMode_of_mayChange_k hwf hi (mayChange_of_policyWrite_cell_ne hi ho hne)
  · cases ho
  · cases ho
    exact hk (eq_k_of_policy_key (List.mem_singleton.1 ((selects_iff ..).1 hi).2))
  · cases ho

/-- Reset loads the key cell with the seed: the one word stored after it, the silicon revision's, is stored to a
read-only cell (R131). -/
theorem cell_resetImage_k {vd : Descriptor} (cfg : DeviceConfig) (hwf : vd.wf cfg.variant = true) :
    RegFile.cell (resetImage vd cfg) vd.k = cfg.hwProtKey := by
  obtain ⟨hindexes, hcls, -, hident, -, -, -, hsizes, -⟩ := Descriptor.wf_clauses hwf
  obtain ⟨hk, -⟩ := wfIndexes_lt hindexes
  obtain ⟨⟨hro, -⟩, -⟩ := wfClasses_apart hcls
  obtain ⟨-, halias⟩ := wfIdent_mem hident
  obtain ⟨-, -, hlen⟩ := wfSizes_length hsizes
  have hne : cfg.variant = .new → vd.k ≠ vd.aliasCell := fun hv e => hro (e ▸ (halias hv).1)
  rw [resetImage, cell_aliasOver_ne _ _ _ hne, RegFile.cell_put_self _ _ (by simpa [hlen] using hk)]

/-! ### Files that differ in the key cell alone -/

/-- The files have one length and agree on every cell but `k`. -/
def AgreeOff (k : Nat) (x y : RegFile) : Prop :=
  y.length = x.length ∧ ∀ j, j ≠ k → RegFile.cell y j = RegFile.cell x j

/-- Storing one word in one cell of both files. -/
theorem AgreeOff.put {k : Nat} {x y : RegFile} (h : AgreeOff k x y) (i : Nat) (v : Word) :
    AgreeOff k (RegFile.put x i v) (RegFile.put y i v) := by
  obtain ⟨hlen, hcell⟩ := h
  refine ⟨by simpa using hlen, fun j hj => ?_⟩
  rw [RegFile.cell_put, RegFile.cell_put, hlen, hcell j hj]

/-- Setting the same bits of a cell other than `k`. -/
theorem AgreeOff.accumulateOr {k i : Nat} {x y : RegFile} (h : AgreeOff k x y) (hi : i ≠ k) (v : Word) :
    AgreeOff k (accumulateOr x i v) (accumulateOr y i v) := by
  rw [Machine.accumulateOr, Machine.accumulateOr, h.2 i hi]
  exact h.put i _

/-- Clearing the same bits of a cell other than `k`. -/
theorem AgreeOff.clearBits {k t : Nat} {x y : RegFile} (h : AgreeOff k x y) (ht : t ≠ k) (v : Word) :
    AgreeOff k (clearBits x t v) (clearBits y t v) := by
  rw [Machine.clearBits, Machine.clearBits, h.2 t ht]
  exact h.put t _

/-- The effects have files that agree off cell `k`, and report alike. -/
def Effect.AgreeOff (k : Nat) (e f : Effect) : Prop := Machine.AgreeOff k e.x f.x ∧ f.diag = e.diag

/-- The policy of a write of another cell does not see the key cell: it consults the cell it stores to and, of a strap,
the protect cell (R123). -/
theorem policyWrite_agreeOff {v : Variant} {vd : Descriptor} {i : Instr} {o : Word} {x y : RegFile} (p : Params)
    (hwf : vd.wf v = true) (hprot : protectApart vd) (ho : i.writeOffset = some o) (hk : indexOf o ≠ vd.k)
    (h : AgreeOff vd.k x y) : Effect.AgreeOff vd.k (policyWrite p i vd x) (policyWrite p i vd y) := by
  cases i <;> cases ho
  case wrPlain | wrKey => exact ⟨h.put _ _, rfl⟩
  case wrRo | wrRng => exact ⟨h, rfl⟩
  case wrW1s => exact ⟨h.accumulateOr hk _, rfl⟩
  case wrW1c w wd =>
    cases ht : clrTarget vd (indexOf o) with
    | none => simpa [policyWrite, clearPolicy, ht] using ⟨h, rfl⟩
    | some t =>
      rw [policyWrite_wrW1c _ _ _ _ ht, policyWrite_wrW1c _ _ _ _ ht]
      exact ⟨h.clearBits (clrTarget_ne_k hwf ht) _, rfl⟩
  case wrW1sp w wd =>
    cases hc : protectCell vd (indexOf o) with
    | none => simpa [policyWrite, strapPolicy, hc] using ⟨h, rfl⟩
    | some c =>
      have hcell : RegFile.cell y c = RegFile.cell x c := h.2 c (hprot _ _ hc)
      by_cases hx : RegFile.cell x c = 0
      · rw [policyWrite_wrW1sp_of_eq _ _ _ hc hx, policyWrite_wrW1sp_of_eq _ _ _ hc (hcell.trans hx)]
        exact ⟨h.accumulateOr hk _, rfl⟩
      · rw [policyWrite_wrW1sp_of_ne _ _ _ hc hx, policyWrite_wrW1sp_of_ne _ _ _ hc (hcell.trans_ne hx)]
        exact ⟨h, rfl⟩

end Sys2Proof.Machine

namespace Sys2Proof

open Machine

/-- Settles O10: every row but a construction asks for the device, and no transaction word decodes without one. -/
theorem noOperationWithoutAnInstance : Obligations.NoOperationWithoutAnInstance := by
  intro s hs
  refine ⟨fun i hi => exec_of_dev_none hs fun hc => ?_, fun w rest hpend => step_tw_of_dev_none hs hpend⟩
  cases i with
  | construct c rev s1 s2 key => exact hi c rev s1 s2 key rfl
  | _ => exact hc

/-- Settles O51, by the reports a row can have. -/
theorem diagnosticSetsThatOccur : Obligations.DiagnosticSetsThatOccur := by
  refine ⟨fun s t i h => ⟨(exec_reports h).bits_mem, fun hg => ?_⟩, Diag.getLsbD_bits⟩
  by_contra hr
  exact hg ((exec_reports h).diag_eq_of_resp_ne_ok hr)

/-- Settles O52: the rows answered `ERR` are among those that change no cell, whose frame says the rest. -/
theorem errLeavesEverythingAsItWas : Obligations.ErrLeavesEverythingAsItWas := by
  intro s t i h herr
  have hrep : Reports i .err t.out.diag := herr ▸ exec_reports h
  obtain ⟨hdev, hparams, hpending, hrng⟩ := frameOfRowsThatKeepTheFile s t i hrep.keepsFile_of_err h
  exact ⟨hdev, hparams, hpending, hrng, hrep.diag_eq_of_resp_ne_ok (by decide)⟩

/-- Settles O24: a key write stores 1 or 0 in the key cell and `RESET` the seed, and a row that changes the mode is one
that may change the key cell. -/
theorem lockModeTransitions : Obligations.LockModeTransitions := by
  intro s d hinv hd
  obtain ⟨hp, hdev⟩ := hinv
  have hwf : (s.vd d).wf d.cfg.variant = true := Params.wf_vdOf hp d.cfg.variant
  refine ⟨fun w o wd hi => ?key, ⟨_, _, withDevice_some hd, rfl, ?reset⟩, fun i t d' hi h hd' hne => ?only⟩
  case key =>
    have ho : indexOf o = (s.vd d).k := eq_k_of_policy_key (List.mem_singleton.1 ((selects_iff ..).1 hi).2)
    refine ⟨_, _, (keyWriteSetsTheLockFlag s d w o wd hd ho).2, rfl, ?_⟩
    have hlen : (s.vd d).k < d.x.length := (hdev d hd).k_lt hp
    rw [isLocked, RegFile.cell_put_self _ _ hlen]
    by_cases hu : writeValue w wd = s.params.unlockConst
    · simp [hu]
    · simp [hu]
  case reset =>
    rw [isLocked, cell_resetImage_k d.cfg hwf, Bool.beq_eq_decide_eq]
  case only =>
    obtain ⟨-, -, hstep⟩ := exec_answers h
    exact setsLockMode_of_mayChange_k hwf hi ((hd' ▸ hstep).mayChange hd hi fun hcell => hne (isLocked_congr hcell))

/-- Settles O25: with `LOCK_BLOCKS` false both writes reach their policy, which neither sees nor stores to the key
cell. -/
theorem lockStateChangesNoEffect : Obligations.LockStateChangesNoEffect := by
  intro s s' d d' i o hinv hinv' hd hd' hparams hcfg hcells hlb hprot hi ho hk
  obtain ⟨hp, hdev⟩ := hinv
  obtain ⟨-, hdev'⟩ := hinv'
  have hwf : (s.vd d).wf d.cfg.variant = true := Params.wf_vdOf hp d.cfg.variant
  have hvd : s'.vd d' = s.vd d := by rw [State.vd, hparams, hcfg, State.vd]
  have hlen : d'.x.length = d.x.length := by
    rw [(hdev d hd).length_eq, (hdev' d' hd').length_eq, hparams, hcfg]
  obtain ⟨⟨-, hagree⟩, hdiag⟩ := policyWrite_agreeOff s.params hwf hprot ho hk ⟨hlen, hcells⟩
  have hpolicy : policyWrite s'.params i (s'.vd d') d'.x = policyWrite s.params i (s.vd d) d'.x := by
    rw [hparams, hvd]
  refine ⟨_, _, _, _, exec_write_open hd ho (gateOpen_of_lockBlocks_false d.x o hlb) rfl,
    exec_write_open hd' ho (gateOpen_of_lockBlocks_false d'.x o (hvd ▸ hlb)) hpolicy, rfl, rfl, hagree,
    cell_policyWrite_k d.x hwf hi ho hk, rfl, ?_⟩
  rw [State.setOut_out, State.setOut_out, hdiag]

end Sys2Proof

/-! PROOFS, family 70_reset_and_hazards.md: reset cell by cell, and the next states of `RESET` and of a
construction. -/

namespace Sys2Proof.Machine

/-! ### What each cell holds after a reset -/

/-- The cells with a configured word differ, and on `V_NEW` the `aliasCell` is none of them (R7(b), R7(d), R7(f)). -/
theorem configuredCells_apart {v : Variant} {vd : Descriptor} (hwf : vd.wf v = true) :
    (vd.id ≠ vd.strap1 ∧ vd.id ≠ vd.strap2 ∧ vd.id ≠ vd.k)
      ∧ (vd.strap1 ≠ vd.strap2 ∧ vd.strap1 ≠ vd.k ∧ vd.strap2 ≠ vd.k)
      ∧ (v = .new → vd.aliasCell ≠ vd.id ∧ vd.aliasCell ≠ vd.strap1 ∧ vd.aliasCell ≠ vd.strap2
          ∧ vd.aliasCell ≠ vd.k) := by
  obtain ⟨-, hcls, -, hident, -, hstraps, -⟩ := Descriptor.wf_clauses hwf
  obtain ⟨⟨hk, -⟩, -, -, -, -, hstrap⟩ := wfClasses_apart hcls
  obtain ⟨hid, halias⟩ := wfIdent_mem hident
  obtain ⟨h12, h1k, h1id, h2k, h2id⟩ := wfStraps_ne hstraps
  refine ⟨⟨h1id.symm, h2id.symm, fun e => hk (e ▸ hid)⟩, ⟨h12, h1k, h2k⟩, fun hv => ?_⟩
  obtain ⟨hmem, hne⟩ := halias hv
  obtain ⟨-, hro1, -⟩ := hstrap hv vd.strap1 (.inl rfl)
  obtain ⟨-, hro2, -⟩ := hstrap hv vd.strap2 (.inr rfl)
  exact ⟨hne, fun e => hro1 (e ▸ hmem), fun e => hro2 (e ▸ hmem), fun e => hk (e ▸ hmem)⟩

/-- Step 3 of R131 cell by cell. -/
theorem cell_aliasOver (v : Variant) (vd : Descriptor) {x : RegFile} {i : Nat} (hi : i < x.length) :
    RegFile.cell (aliasOver v vd x) i
      = if v = .new ∧ i = vd.aliasCell then vd.revAliasA1 else RegFile.cell x i := by
  split
  next h => obtain ⟨rfl, rfl⟩ := h; exact RegFile.cell_put_self x _ hi
  next h => exact cell_aliasOver_ne v vd x fun hv e => h ⟨hv, e⟩

/-- A cell of the file after a reset: its configured word, on `V_NEW` the word of the `aliasCell`, or its default
(R131). -/
theorem cell_resetImage {vd : Descriptor} (cfg : DeviceConfig) (hwf : vd.wf cfg.variant = true) {i : Nat}
    (hi : i < vd.n) : RegFile.cell (resetImage vd cfg) i =
      if i = vd.id then cfg.siliconRev
      else if i = vd.strap1 then cfg.hwStrap1
      else if i = vd.strap2 then cfg.hwStrap2
      else if i = vd.k then cfg.hwProtKey
      else if cfg.variant = .new ∧ i = vd.aliasCell then vd.revAliasA1
      else RegFile.cell vd.defaults i := by
  obtain ⟨hindexes, -, -, -, -, -, -, hsizes, -⟩ := Descriptor.wf_clauses hwf
  obtain ⟨hk, hid, hs1, hs2, -⟩ := wfIndexes_lt hindexes
  obtain ⟨-, -, hlen⟩ := wfSizes_length hsizes
  obtain ⟨⟨hid1, hid2, hidk⟩, ⟨h12, h1k, h2k⟩, halias⟩ := configuredCells_apart hwf
  have not_aliasCell : ∀ j, (j = vd.id ∨ j = vd.strap1 ∨ j = vd.strap2 ∨ j = vd.k) →
      ¬ (cfg.variant = .new ∧ j = vd.aliasCell) := by
    rintro _ hj ⟨hv, rfl⟩
    obtain ⟨h1, h2, h3, h4⟩ := halias hv
    simp [h1, h2, h3, h4] at hj
  rw [resetImage, cell_aliasOver _ _ (by simpa [hlen] using hi)]
  simp only [RegFile.cell_put, RegFile.put_length, hlen, hk, hid, hs1, hs2, and_true]
  by_cases h : i = vd.id ∨ i = vd.strap1 ∨ i = vd.strap2 ∨ i = vd.k
  · rw [if_neg (not_aliasCell i h)]
    obtain rfl | rfl | rfl | rfl := h
    · simp [hid1, hid2, hidk]
    · simp [hid1.symm, h12, h1k]
    · simp [hid2.symm, h12.symm, h2k]
    · simp [hidk.symm, h1k.symm, h2k.symm]
  · simp only [not_or] at h
    simp [h]

/-! ### The next states of `RESET` and of a construction -/

/-- `RESET` leaves the device that its configuration constructs (R131). -/
theorem exec_reset {s : State} {d : Device} (hd : s.dev = some d) :
    exec .reset s = .next ((s.setDev (some (construct s.params d.cfg))).setOut {}) :=
  withDevice_some hd

/-- `RESET` of a device just constructed or reset changes nothing (R131). -/
theorem exec_reset_of_constructed (s : State) (cfg : DeviceConfig) :
    exec .reset ((s.setDev (some (construct s.params cfg))).setOut {})
      = .next ((s.setDev (some (construct s.params cfg))).setOut {}) :=
  exec_reset (d := construct s.params cfg) rfl

/-- A construction with a variant and an allowed revision leaves the constructed device (R130). -/
theorem exec_construct_of_mem {s : State} {c : BitVec 2} {v : Variant} {rev : Word} (s1 s2 key : Word)
    (hv : variantOfCode c = some v) (hrev : rev ∈ s.params.revAllow) :
    exec (.construct c rev s1 s2 key) s
      = .next ((s.setDev (some (construct s.params ⟨v, rev, s1, s2, key⟩))).setOut {}) := by
  simp [exec, execConstruct, hv, hrev]

/-- A construction with no variant or with an unknown revision raises `CfgError` (R116, R130). -/
theorem exec_construct_of_refused {s : State} {c : BitVec 2} {rev : Word} (s1 s2 key : Word)
    (h : variantOfCode c = none ∨ rev ∉ s.params.revAllow) :
    exec (.construct c rev s1 s2 key) s = raiseCfgError s := by
  cases hv : variantOfCode c with
  | none => simp [exec, execConstruct, hv]
  | some v =>
    have hrev : rev ∉ s.params.revAllow := h.resolve_left (by simp [hv])
    simp [exec, execConstruct, hv, hrev]

/-- The codes 0, 1 and 2 are the three variants (R53). -/
theorem variantOfCode_eq_some {c : BitVec 2} {v : Variant}
    (h : (c.toNat = 0 ∧ v = .old) ∨ (c.toNat = 1 ∧ v = .mid) ∨ (c.toNat = 2 ∧ v = .new)) :
    variantOfCode c = some v := by
  obtain ⟨hc, rfl⟩ | ⟨hc, rfl⟩ | ⟨hc, rfl⟩ := h
  · obtain rfl : c = 0 := BitVec.eq_of_toNat_eq hc
    rfl
  · obtain rfl : c = 1 := BitVec.eq_of_toNat_eq hc
    rfl
  · obtain rfl : c = 2 := BitVec.eq_of_toNat_eq hc
    rfl

/-- Code 3 is no variant (R56). -/
theorem variantOfCode_eq_none {c : BitVec 2} (h : c.toNat = 3) : variantOfCode c = none := by
  obtain rfl : c = 3 := BitVec.eq_of_toNat_eq h
  rfl

end Sys2Proof.Machine

namespace Sys2Proof

open Machine

/-- Settles O47: R7 keeps the cells that reset stores to apart, so each shows its own word. -/
theorem resetReloadsDefaultsThenConfiguration : Obligations.ResetReloadsDefaultsThenConfiguration := by
  intro s d hp hd
  have hwf : (s.vd d).wf d.cfg.variant = true := Params.wf_vdOf hp d.cfg.variant
  obtain ⟨-, -, -, -, -, -, -, hsizes, -⟩ := Descriptor.wf_clauses hwf
  exact ⟨_, exec_reset hd, beq_iff_eq.1 (resetImage_wf d.cfg hsizes), fun _ hi => cell_resetImage d.cfg hwf hi⟩

/-- Settles O57: each next state is the one before with another device and other outputs, and `RESET` constructs its
device from the configuration held. -/
theorem frameOfResetAndConstruction : Obligations.FrameOfResetAndConstruction := by
  intro s t c rev s1 s2 key
  refine ⟨fun h => ?_, fun h => ?_⟩
  · obtain ⟨d, hd, ht⟩ := withDevice_next h
    cases ht
    exact ⟨rfl, hd ▸ rfl⟩
  · by_cases hb : variantOfCode c = none ∨ rev ∉ s.params.revAllow
    · cases (exec_construct_of_refused s1 s2 key hb).symm.trans h
      rfl
    · obtain ⟨hcode, hrev⟩ := not_or.1 hb
      obtain ⟨v, hv⟩ := Option.ne_none_iff_exists'.1 hcode
      cases (exec_construct_of_mem s1 s2 key hv (not_not.1 hrev)).symm.trans h
      rfl

/-- Settles O15: the reset state holds the device that the reference configuration constructs, and the REF record is
well-formed. -/
theorem resetStateIsJustReset : Obligations.ResetStateIsJustReset := by
  have hwf : refNew.wf .new = true := by decide +kernel
  have hcell := fun i (hi : i < refNew.n) => cell_resetImage refConfig hwf hi
  exact ⟨exec_reset_of_constructed State.reset refConfig, _, rfl, rfl, hcell 0 (by decide), hcell 5 (by decide),
    hcell 1 (by decide), hcell 320 (by decide), hcell 324 (by decide)⟩

/-- Settles O48: the device that `RESET` leaves is the one its configuration constructs, whatever file it had. -/
theorem resetForgetsTheFile : Obligations.ResetForgetsTheFile := by
  rintro s _ t d x hd rfl h
  cases (exec_reset hd).symm.trans h
  exact ⟨exec_reset (d := ⟨d.cfg, x⟩) rfl, exec_reset_of_constructed s d.cfg⟩

/-- Settles O49: a construction with a variant and an allowed revision makes the device `RESET` would make again. -/
theorem constructionMakesAResetInstance : Obligations.ConstructionMakesAResetInstance := by
  intro s c v rev s1 s2 key hc hrev
  exact ⟨_, exec_construct_of_mem s1 s2 key (variantOfCode_eq_some hc) hrev, rfl,
    exec_reset_of_constructed s _⟩

/-- Settles O50: with no variant or an unknown revision the one outcome is `CfgError`. -/
theorem constructionFailsCleanly : Obligations.ConstructionFailsCleanly := fun _ _ _ s1 s2 key h =>
  exec_construct_of_refused s1 s2 key (h.imp_left variantOfCode_eq_none)

end Sys2Proof
